-- ==== Sys2Proof/Word.lean ====
section
/-! DEFINITION. The bit-vector types of the machine (spec 00_scope.md R6, R8, R9, R10). Every value is unsigned;
arithmetic on a bit vector wraps modulo two to the power of its width, which is what R10 asks for. -/

namespace Sys2Proof

/-- A general register, a timer, or one cell of Memory: 8 bits (R6 `XLEN`, `TLEN`; R60). -/
abbrev Byte := BitVec 8

/-- An instruction word, the instruction pointer, or a stack slot: 16 bits (R6 `PCLEN`, `SLOTLEN`; R90). -/
abbrev Word := BitVec 16

/-- A Memory address or the index register: 12 bits (R6 `ILEN`; R38: the Memory interface carries 12 bits). -/
abbrev Addr := BitVec 12

/-- A register index: the 4-bit `x` or `y` field (R20, R91). -/
abbrev RegIx := BitVec 4

/-- A key id: 4 bits (R40). -/
abbrev KeyId := BitVec 4

/-- The 4-bit immediate `n`, or any other nibble of an instruction word (R91). -/
abbrev Nibble := BitVec 4

end Sys2Proof
end

