-- ==== Sys2Proof/Syntax.lean ====
section
/-! DEFINITION. The 34 instructions (spec 30_encoding.md R96), one constructor per row of spec/opcode_table.json, in
the table's order. A constructor carries every operand field of its row at the field's own width (R91), so a term
with an operand out of range cannot be written. `shr` and `shl` carry the `y` field although it has no effect (R99):
the word can then be told back from the instruction. -/

namespace Sys2Proof

/-- The instructions of the machine (R96). `x`, `y` are register indices, `n`, `nn`, `nnn` the immediates of R93. -/
inductive Instr where
  | cls                              -- 00E0
  | ret                              -- 00EE
  | jp    (nnn : Addr)               -- 1nnn
  | call  (nnn : Addr)               -- 2nnn
  | sei   (x : RegIx) (nn : Byte)    -- 3xnn
  | snei  (x : RegIx) (nn : Byte)    -- 4xnn
  | ser   (x y : RegIx)              -- 5xy0
  | ldi   (x : RegIx) (nn : Byte)    -- 6xnn
  | addi  (x : RegIx) (nn : Byte)    -- 7xnn
  | mov   (x y : RegIx)              -- 8xy0
  | or    (x y : RegIx)              -- 8xy1
  | and   (x y : RegIx)              -- 8xy2
  | xor   (x y : RegIx)              -- 8xy3
  | add   (x y : RegIx)              -- 8xy4
  | sub   (x y : RegIx)              -- 8xy5
  | shr   (x y : RegIx)              -- 8xy6
  | suby  (x y : RegIx)              -- 8xy7
  | shl   (x y : RegIx)              -- 8xyE
  | sner  (x y : RegIx)              -- 9xy0
  | ldix  (nnn : Addr)               -- Annn
  | jpv0  (nnn : Addr)               -- Bnnn
  | rnd   (x : RegIx) (nn : Byte)    -- Cxnn
  | drw   (x y : RegIx) (n : Nibble) -- Dxyn
  | skp   (x : RegIx)                -- Ex9E
  | sknp  (x : RegIx)                -- ExA1
  | lddt  (x : RegIx)                -- Fx07
  | wkey  (x : RegIx)                -- Fx0A
  | stdt  (x : RegIx)                -- Fx15
  | stst  (x : RegIx)                -- Fx18
  | addix (x : RegIx)                -- Fx1E
  | font  (x : RegIx)                -- Fx29
  | bcd   (x : RegIx)                -- Fx33
  | stm   (x : RegIx)                -- Fx55
  | ldm   (x : RegIx)                -- Fx65
  deriving DecidableEq, Repr

end Sys2Proof
end

