-- ==== Sys2Proof/WellFormed.lean ====
section
/-! DEFINITION. Which words are instructions, said twice from two rules of spec 30_encoding.md: by the rows of the
opcode map (R96: a word is an instruction when it agrees with a row's `match` under the row's `mask`), and by the
groups of unrecognised words (R94, R97). Decode.lean reads words by a third rule, the decode procedure R95; that the
three agree is a statement. An operand needs no check of its own: every field of a constructor of `Instr` has exactly
the values its bits can spell (R20: "no index can be out of range"). -/

namespace Sys2Proof

/-- One row of the opcode map (R96). -/
structure OpcodeRow where
  mnemonic : String
  pattern  : Word     -- the row's `match`
  mask     : Word
  deriving DecidableEq, Repr

/-- The first rows of the opcode map, CLS to SUBY (R96). -/
def opcodeRowsLow : List OpcodeRow :=
  [
   ⟨"CLS", 0x00E0, 0xFFFF⟩,
   ⟨"RET", 0x00EE, 0xFFFF⟩,
   ⟨"JP", 0x1000, 0xF000⟩,
   ⟨"CALL", 0x2000, 0xF000⟩,
   ⟨"SEI", 0x3000, 0xF000⟩,
   ⟨"SNEI", 0x4000, 0xF000⟩,
   ⟨"SER", 0x5000, 0xF00F⟩,
   ⟨"LDI", 0x6000, 0xF000⟩,
   ⟨"ADDI", 0x7000, 0xF000⟩,
   ⟨"MOV", 0x8000, 0xF00F⟩,
   ⟨"OR", 0x8001, 0xF00F⟩,
   ⟨"AND", 0x8002, 0xF00F⟩,
   ⟨"XOR", 0x8003, 0xF00F⟩,
   ⟨"ADD", 0x8004, 0xF00F⟩,
   ⟨"SUB", 0x8005, 0xF00F⟩,
   ⟨"SHR", 0x8006, 0xF00F⟩,
   ⟨"SUBY", 0x8007, 0xF00F⟩
  ]

/-- The other rows of the opcode map, SHL to LDM (R96). -/
def opcodeRowsHigh : List OpcodeRow :=
  [
   ⟨"SHL", 0x800E, 0xF00F⟩,
   ⟨"SNER", 0x9000, 0xF00F⟩,
   ⟨"LDIX", 0xA000, 0xF000⟩,
   ⟨"JPV0", 0xB000, 0xF000⟩,
   ⟨"RND", 0xC000, 0xF000⟩,
   ⟨"DRW", 0xD000, 0xF000⟩,
   ⟨"SKP", 0xE09E, 0xF0FF⟩,
   ⟨"SKNP", 0xE0A1, 0xF0FF⟩,
   ⟨"LDDT", 0xF007, 0xF0FF⟩,
   ⟨"WKEY", 0xF00A, 0xF0FF⟩,
   ⟨"STDT", 0xF015, 0xF0FF⟩,
   ⟨"STST", 0xF018, 0xF0FF⟩,
   ⟨"ADDIX", 0xF01E, 0xF0FF⟩,
   ⟨"FONT", 0xF029, 0xF0FF⟩,
   ⟨"BCD", 0xF033, 0xF0FF⟩,
   ⟨"STM", 0xF055, 0xF0FF⟩,
   ⟨"LDM", 0xF065, 0xF0FF⟩
  ]

/-- The opcode map (R96), in its order. -/
def opcodeMap : List OpcodeRow := opcodeRowsLow ++ opcodeRowsHigh

/-- The mnemonic of an instruction: its row's name in the opcode map (R96, R101). -/
def Instr.mnemonic : Instr → String
  | .cls => "CLS"
  | .ret => "RET"
  | .jp _ => "JP"
  | .call _ => "CALL"
  | .sei _ _ => "SEI"
  | .snei _ _ => "SNEI"
  | .ser _ _ => "SER"
  | .ldi _ _ => "LDI"
  | .addi _ _ => "ADDI"
  | .mov _ _ => "MOV"
  | .or _ _ => "OR"
  | .and _ _ => "AND"
  | .xor _ _ => "XOR"
  | .add _ _ => "ADD"
  | .sub _ _ => "SUB"
  | .shr _ _ => "SHR"
  | .suby _ _ => "SUBY"
  | .shl _ _ => "SHL"
  | .sner _ _ => "SNER"
  | .ldix _ => "LDIX"
  | .jpv0 _ => "JPV0"
  | .rnd _ _ => "RND"
  | .drw _ _ _ => "DRW"
  | .skp _ => "SKP"
  | .sknp _ => "SKNP"
  | .lddt _ => "LDDT"
  | .wkey _ => "WKEY"
  | .stdt _ => "STDT"
  | .stst _ => "STST"
  | .addix _ => "ADDIX"
  | .font _ => "FONT"
  | .bcd _ => "BCD"
  | .stm _ => "STM"
  | .ldm _ => "LDM"

/-- A word agrees with a row when `(w AND mask) = match` (R94). -/
def OpcodeRow.admits (r : OpcodeRow) (w : Word) : Bool := w &&& r.mask == r.pattern

/-- Group 0: only 0x00E0 and 0x00EE are instructions (R97). -/
def group0Ok (w : Word) : Bool := w == 0x00E0 || w == 0x00EE

/-- Groups 5 and 9: the low nibble is 0 (R94, R97). -/
def lowNibbleZero (w : Word) : Bool := w.extractLsb' 0 4 == 0

/-- Group 8: the low nibble is one of 0 to 7, or 0xE (R94, R97). -/
def group8Ok (w : Word) : Bool := (w.extractLsb' 0 4).toNat ≤ 7 || w.extractLsb' 0 4 == 0xE

/-- Group E: the low byte is 0x9E or 0xA1 (R94, R97). -/
def groupEOk (w : Word) : Bool := w.extractLsb' 0 8 == 0x9E || w.extractLsb' 0 8 == 0xA1

/-- Group F: the low byte is one of the nine sub-opcodes (R94, R97). -/
def groupFOk (w : Word) : Bool :=
  [0x07, 0x0A, 0x15, 0x18, 0x1E, 0x29, 0x33, 0x55, 0x65].contains (w.extractLsb' 0 8).toNat

/-- The check of a word: it is none of the unrecognised words that R97 lists, group by group. Groups 1 to 4, 6, 7 and
A to D have no unrecognised word. -/
def wellFormedWord (w : Word) : Bool :=
  if w.extractLsb' 12 4 = 0x0 then group0Ok w
  else if w.extractLsb' 12 4 = 0x5 then lowNibbleZero w
  else if w.extractLsb' 12 4 = 0x8 then group8Ok w
  else if w.extractLsb' 12 4 = 0x9 then lowNibbleZero w
  else if w.extractLsb' 12 4 = 0xE then groupEOk w
  else if w.extractLsb' 12 4 = 0xF then groupFOk w
  else true

end Sys2Proof
end

