-- ==== Sys2Proof/Decode.lean ====
section
/-! DEFINITION. From words to instructions by the decode procedure of spec 30_encoding.md R95, total on every word and
on every list of bytes, and the encoder written from the formats of R92 and the rows of R96. -/

namespace Sys2Proof

/-! ### The fields of a word (R91) -/

def fieldOp (w : Word) : Nibble := w.extractLsb' 12 4
def fieldX (w : Word) : RegIx := w.extractLsb' 8 4
def fieldY (w : Word) : RegIx := w.extractLsb' 4 4
def fieldN (w : Word) : Nibble := w.extractLsb' 0 4
def fieldNN (w : Word) : Byte := w.extractLsb' 0 8
def fieldNNN (w : Word) : Addr := w.extractLsb' 0 12

/-! ### Decode (R95) -/

/-- Group 8, the register-to-register operations, by the low nibble (R95). -/
def decodeGroup8 (w : Word) : Option Instr :=
  match (fieldN w).toNat with
  | 0x0 => some (.mov (fieldX w) (fieldY w))
  | 0x1 => some (.or (fieldX w) (fieldY w))
  | 0x2 => some (.and (fieldX w) (fieldY w))
  | 0x3 => some (.xor (fieldX w) (fieldY w))
  | 0x4 => some (.add (fieldX w) (fieldY w))
  | 0x5 => some (.sub (fieldX w) (fieldY w))
  | 0x6 => some (.shr (fieldX w) (fieldY w))
  | 0x7 => some (.suby (fieldX w) (fieldY w))
  | 0xE => some (.shl (fieldX w) (fieldY w))
  | _ => none

/-- Group E, the key tests, by the low byte (R95). -/
def decodeGroupE (w : Word) : Option Instr :=
  if fieldNN w = 0x9E then some (.skp (fieldX w))
  else if fieldNN w = 0xA1 then some (.sknp (fieldX w))
  else none

/-- Group F, by the low byte (R95). -/
def decodeGroupF (w : Word) : Option Instr :=
  if fieldNN w = 0x07 then some (.lddt (fieldX w))
  else if fieldNN w = 0x0A then some (.wkey (fieldX w))
  else if fieldNN w = 0x15 then some (.stdt (fieldX w))
  else if fieldNN w = 0x18 then some (.stst (fieldX w))
  else if fieldNN w = 0x1E then some (.addix (fieldX w))
  else if fieldNN w = 0x29 then some (.font (fieldX w))
  else if fieldNN w = 0x33 then some (.bcd (fieldX w))
  else if fieldNN w = 0x55 then some (.stm (fieldX w))
  else if fieldNN w = 0x65 then some (.ldm (fieldX w))
  else none

/-- The decode procedure of R95. `none` is its `Unrecognised`. -/
def decode (w : Word) : Option Instr :=
  match (fieldOp w).toNat with
  | 0x0 => if w = 0x00E0 then some .cls else if w = 0x00EE then some .ret else none
  | 0x1 => some (.jp (fieldNNN w))
  | 0x2 => some (.call (fieldNNN w))
  | 0x3 => some (.sei (fieldX w) (fieldNN w))
  | 0x4 => some (.snei (fieldX w) (fieldNN w))
  | 0x5 => if fieldN w = 0 then some (.ser (fieldX w) (fieldY w)) else none
  | 0x6 => some (.ldi (fieldX w) (fieldNN w))
  | 0x7 => some (.addi (fieldX w) (fieldNN w))
  | 0x8 => decodeGroup8 w
  | 0x9 => if fieldN w = 0 then some (.sner (fieldX w) (fieldY w)) else none
  | 0xA => some (.ldix (fieldNNN w))
  | 0xB => some (.jpv0 (fieldNNN w))
  | 0xC => some (.rnd (fieldX w) (fieldNN w))
  | 0xD => some (.drw (fieldX w) (fieldY w) (fieldN w))
  | 0xE => decodeGroupE w
  | 0xF => decodeGroupF w
  | _ => none

/-- Two bytes as a word, the byte at the lower address first (R66, R90). -/
def wordOfBytes (hi lo : Byte) : Word := hi ++ lo

/-- The byte of a word that lies at the lower address (R66). -/
def highByte (w : Word) : Byte := w.extractLsb' 8 8

/-- The byte of a word that lies at the higher address (R66). -/
def lowByte (w : Word) : Byte := w.extractLsb' 0 8

/-- Decoding the bytes of a program: the instruction and the bytes after it, or `none` where the word is unrecognised
or fewer than two bytes are left (R90). -/
def decodeBytes : List Byte → Option (Instr × List Byte)
  | hi :: lo :: rest =>
    match decode (wordOfBytes hi lo) with
    | some i => some (i, rest)
    | none => none
  | _ => none

/-- The instruction this decoder reads from a word numbered as the opcode table numbers it; the bits above `nbits` are
zero. The word is laid out in two bytes, the first at the lower address (R66), and given to `decodeBytes`. -/
def decodeTableWord (nbits w : Nat) : Option Instr :=
  let word : Word := BitVec.ofNat 16 (w % 2 ^ nbits)
  match decodeBytes [highByte word, lowByte word] with
  | some (i, _) => some i
  | none => none

/-! ### Encode (R92, R96) -/

/-- A word from its opcode nibble and a 12-bit immediate: the format NNN (R92). -/
def wordNNN (op : Nibble) (nnn : Addr) : Word := op ++ nnn

/-- A word from its opcode nibble, a register and a low byte: the formats XNN and XSS (R92). -/
def wordXNN (op : Nibble) (x : RegIx) (nn : Byte) : Word := op ++ x ++ nn

/-- A word from its four nibbles: the formats XYN and XYS (R92). -/
def wordXYN (op : Nibble) (x y : RegIx) (n : Nibble) : Word := op ++ x ++ y ++ n

/-- The word of an instruction (R92, R96). -/
def encode : Instr → Word
  | .cls => 0x00E0
  | .ret => 0x00EE
  | .jp nnn => wordNNN 0x1 nnn
  | .call nnn => wordNNN 0x2 nnn
  | .sei x nn => wordXNN 0x3 x nn
  | .snei x nn => wordXNN 0x4 x nn
  | .ser x y => wordXYN 0x5 x y 0x0
  | .ldi x nn => wordXNN 0x6 x nn
  | .addi x nn => wordXNN 0x7 x nn
  | .mov x y => wordXYN 0x8 x y 0x0
  | .or x y => wordXYN 0x8 x y 0x1
  | .and x y => wordXYN 0x8 x y 0x2
  | .xor x y => wordXYN 0x8 x y 0x3
  | .add x y => wordXYN 0x8 x y 0x4
  | .sub x y => wordXYN 0x8 x y 0x5
  | .shr x y => wordXYN 0x8 x y 0x6
  | .suby x y => wordXYN 0x8 x y 0x7
  | .shl x y => wordXYN 0x8 x y 0xE
  | .sner x y => wordXYN 0x9 x y 0x0
  | .ldix nnn => wordNNN 0xA nnn
  | .jpv0 nnn => wordNNN 0xB nnn
  | .rnd x nn => wordXNN 0xC x nn
  | .drw x y n => wordXYN 0xD x y n
  | .skp x => wordXNN 0xE x 0x9E
  | .sknp x => wordXNN 0xE x 0xA1
  | .lddt x => wordXNN 0xF x 0x07
  | .wkey x => wordXNN 0xF x 0x0A
  | .stdt x => wordXNN 0xF x 0x15
  | .stst x => wordXNN 0xF x 0x18
  | .addix x => wordXNN 0xF x 0x1E
  | .font x => wordXNN 0xF x 0x29
  | .bcd x => wordXNN 0xF x 0x33
  | .stm x => wordXNN 0xF x 0x55
  | .ldm x => wordXNN 0xF x 0x65

/-- The bytes of an instruction, in the order Memory holds them (R66, R90). -/
def encodeBytes (i : Instr) : List Byte := [highByte (encode i), lowByte (encode i)]

end Sys2Proof
end

