-- ==== Sys2Proof/Config.lean ====
section
/-! DEFINITION. What is fixed for the machine (spec 00_scope.md R6; the sizes that are types, 16 registers, 16 stack slots, 16 keys, 64 by 32 pixels, stand
in Machine/State.lean), the values the spec decides or proposes for what
its document leaves open (R7), and the free values, which have no body (assumptions 3 and 4). -/

namespace Sys2Proof.Config

/-- `MEM_SIZE` (R6). -/
def memSize : Nat := 4096

/-- `RESET_PC`, also the program load address (R6, R241). -/
def resetPc : Word := 0x200

/-- The last address an instruction word can be fetched from (R28): its second byte is then at 0xFFF. -/
def lastFetch : Nat := 0xFFE

/-- `RESET_I` (R7, R45): the spec's decision D11, not the document's. DESIGN CHOICE (assumption 6). -/
def resetI : Addr := 0x000

/-- The default of the open parameter `FONT_BASE` (R7). A run may have another base: the base a machine uses is the
field `fontBase` of its State; this is only the value that field has at reset. DESIGN CHOICE (assumption 5). -/
def fontBaseDefault : Addr := 0x050

/-- `FONT_STRIDE` (R7). -/
def fontStride : Nat := 5

/-- What a cell of Memory reads as when the state lists no byte for it. The spec gives Memory no reset contents
(R65, `MEM_INIT` is an argument). DESIGN CHOICE (assumption 2): every `MEM_INIT` is some list of cells, and a
statement about every state covers every `MEM_INIT`. -/
def blankByte : Byte := 0

/-- The first byte at which a program is loaded, as a Memory address (R244). -/
def programBase : Addr := 0x200

/-- The most bytes a program can have: 0x200 to 0xFFF (R72, R244). -/
def programMax : Nat := 0xE00

/-- The byte the random source gives at its `k`-th draw, when the state lists no seeded bytes (R154: "a draw under no
law"). A free value: it has no body, so nothing can be proved of it (assumption 3). -/
opaque freeRandByte : Nat → Byte

/-- Which of several pressed keys the Keypad reports at its `k`-th such choice, when the state lists no choices (R185:
"a draw among the keys that are down"). A free value (assumption 4); it is reduced to a position among the pressed
keys where it is used. -/
opaque freeKeyChoice : Nat → Nat

/-- The 80 font bytes of R168, five a digit, for digits 0 to 7. -/
def fontGlyphsLow : List Byte :=
  [0xF0, 0x90, 0x90, 0x90, 0xF0,
   0x20, 0x60, 0x20, 0x20, 0x70,
   0xF0, 0x10, 0xF0, 0x80, 0xF0,
   0xF0, 0x10, 0xF0, 0x10, 0xF0,
   0x90, 0x90, 0xF0, 0x10, 0x10,
   0xF0, 0x80, 0xF0, 0x10, 0xF0,
   0xF0, 0x80, 0xF0, 0x90, 0xF0,
   0xF0, 0x10, 0x20, 0x40, 0x40]

/-- The font bytes of R168 for digits 8 to F. -/
def fontGlyphsHigh : List Byte :=
  [0xF0, 0x90, 0xF0, 0x90, 0xF0,
   0xF0, 0x90, 0xF0, 0x10, 0xF0,
   0xF0, 0x90, 0xF0, 0x90, 0x90,
   0xE0, 0x90, 0xE0, 0x90, 0xE0,
   0xF0, 0x80, 0x80, 0x80, 0xF0,
   0xE0, 0x90, 0x90, 0x90, 0xE0,
   0xF0, 0x80, 0xF0, 0x80, 0xF0,
   0xF0, 0x80, 0xF0, 0x80, 0x80]

/-- The customary font (R168): what the loader stores at `FONT_BASE`. -/
def fontGlyphs : List Byte := fontGlyphsLow ++ fontGlyphsHigh

end Sys2Proof.Config
end

