-- ==== Sys2Proof/Machine/State.lean ====
section
/-! DEFINITION. The state of the closed system (spec 10_state.md R46): CORE's registers, the collaborators it reaches
(Memory, the framebuffer, the keys, the random source), the environment's coming inputs, and the step result CORE hands
to its driver. Plain data throughout. -/

namespace Sys2Proof.Machine

/-- Memory as a list of cells in one canonical form (`Memory.wf`): addresses strictly rising, all below 0x1000, and no
cell equal to `Config.blankByte`, which an unlisted address reads as (R60, R65; assumption 2). -/
abbrev Memory := List Host.Cell

/-- The framebuffer, `FB[py][px]` of R172: one 64-bit row for each of the 32 values of `py`; pixel `px` is bit `px` of
its row, so bit 0 is the leftmost column. -/
abbrev Framebuffer := Vector (BitVec 64) 32

/-- The inputs of an oracle: the values a harness has supplied, the next one first, and how many have been drawn. When
none is supplied the draw is a free value of Config, indexed by `taken` (R154, R185; assumptions 3 and 4). -/
structure Draws (α : Type) where
  supplied : List α
  taken    : Nat
  deriving DecidableEq, Repr

/-- The two kinds of MemoryAddressOutOfRange (R37, R208). -/
inductive AccessKind where
  | fetch   -- the instruction word itself lies outside Memory
  | data    -- an operand range of BCD, STM, LDM or DRW does
  deriving DecidableEq, Repr

/-- The six step results (R200). `kind` stands only where it has a meaning (R37). -/
inductive StepCode where
  | ok
  | waitKey
  | unknownInstruction
  | stackOverflow
  | stackUnderflow
  | memoryAddressOutOfRange (kind : AccessKind)
  deriving DecidableEq, Repr

/-- The record a step returns to the driver (R37): what happened, the address `P` the step started at, and the word
fetched (0x0000 when nothing was). -/
structure StepResult where
  code : StepCode
  addr : Word
  word : Word
  deriving DecidableEq, Repr

/-- What the outside can do to the system between two steps (R13): the timer driver's tick (R215), the two writes of the
timer port (R42, R216), a change of the key states (R186), and reset (R44, R243). -/
inductive DriverEvent where
  | tick
  | setDelayTimer (value : Byte)
  | setSoundTimer (value : Byte)
  | setKeys (keys : BitVec 16)
  | reset
  deriving DecidableEq, Repr

/-- The whole state. The fields from `v` to `st` are CORE's (R46); `mem`, `fb`, `keys` and `rand` are the
collaborators' (R35, R46); the others are the model's own, each named in the assumption log. -/
structure State where
  /-- `V[0]` to `V[15]` (R20); slot 15 is the flag register VF (R21). -/
  v : Vector Byte 16
  /-- The instruction pointer (R23). -/
  pc : Word
  /-- The index register `I` (R29). -/
  index : Addr
  /-- The stack pointer `SP`, the number of return addresses held, 0 to 16 (R31). -/
  sp : Fin 17
  /-- `STACK[0]` to `STACK[15]` (R30). -/
  stack : Vector Word 16
  /-- The delay timer (R32). -/
  dt : Byte
  /-- The sound timer (R32). -/
  st : Byte
  /-- Memory (R60, R65). -/
  mem : Memory
  /-- The Display's framebuffer (R172, R173). -/
  fb : Framebuffer
  /-- The key states: bit `k` is `KEY[k]` (R186). -/
  keys : BitVec 16
  /-- The random source: the bytes a seeded source still holds, and the count of draws (R41, R154). -/
  rand : Draws Byte
  /-- The Keypad's choices among several pressed keys (R185). -/
  keyDraws : Draws Nat
  /-- The open parameter `FONT_BASE` of this machine (R7, R163); no step changes it. -/
  fontBase : Addr
  /-- What the outside does before each of the coming steps, the next gap first; no event once it is used up (R7 `TICKS`
  and `KEYS(t)`, R13; assumption 7). -/
  schedule : List (List DriverEvent)
  /-- The result of the last step (R37), an output: no step reads the `code` of an earlier one. -/
  result : StepResult
  /-- The first step result that was a condition, codes 2 to 5; never cleared (R222). -/
  firstCondition : Option StepResult
  deriving DecidableEq, Repr

/-- A step of this machine never faults: every condition of R200 is a next state that reports it (R202: "local,
recoverable conditions"; R36: "A step always returns"). So this type has no constructor: no meaning can raise one. -/
inductive Fault
  deriving DecidableEq, Repr

/-- The reasons a step can be refused. -/
inductive Refusal where
  /-- Raised by an arm of `exec` whose instruction has no meaning in the model yet, and by nothing else. Safe: the model
  stops where the hardware goes on. No arm of this model raises it. -/
  | notModelled (mnemonic : String)
  deriving DecidableEq, Repr

/-- The system right after CORE's reset (R45), with nothing loaded in Memory, the reference Display all off (R173), no
key pressed, no seeded byte, the default `FONT_BASE` and no driver event to come. -/
def State.reset : State where
  v := Vector.replicate 16 0x00
  pc := Config.resetPc
  index := Config.resetI
  sp := 0
  stack := Vector.replicate 16 0x0000
  dt := 0x00
  st := 0x00
  mem := []
  fb := Vector.replicate 32 0
  keys := 0
  rand := ⟨[], 0⟩
  keyDraws := ⟨[], 0⟩
  fontBase := Config.fontBaseDefault
  schedule := []
  result := ⟨.ok, 0x0000, 0x0000⟩
  firstCondition := none

end Sys2Proof.Machine
end

