-- ==== Sys2Proof/Machine/Ops.lean ====
section
/-! DEFINITION. The named operations over Memory, the registers, the stack, the oracles and the step result. Every
meaning is written over these, and every register has its one reader and its one writer here. -/

namespace Sys2Proof.Machine

/-! ### Memory (spec 20_memory.md R63, R64, R65) -/

/-- The byte listed for address `a`, or the blank byte. -/
def Memory.lookup : Memory → Nat → Byte
  | [], _ => Config.blankByte
  | (b, w) :: rest, a => if b = a then w else Memory.lookup rest a

/-- `MemRead(a, 1)` (R63). The interface carries 12 bits (R38), so every address is in Memory. -/
def Memory.read (m : Memory) (a : Addr) : Byte := m.lookup a.toNat

/-- Memory without a listed byte for address `a`, so that `a` reads as blank. -/
def Memory.erase : Memory → Nat → Memory
  | [], _ => []
  | (b, w) :: rest, a => if b = a then Memory.erase rest a else (b, w) :: Memory.erase rest a

/-- Memory with `v` listed for address `a`, at its place in the order. -/
def Memory.insert : Memory → Nat → Byte → Memory
  | [], a, v => [(a, v)]
  | (b, w) :: rest, a, v =>
    if a < b then (a, v) :: (b, w) :: rest
    else if a = b then (a, v) :: rest
    else (b, w) :: Memory.insert rest a v

/-- `MemWrite(a, 1, v)` (R64). Writing the blank byte removes the cell, which keeps equal memories equal as data. -/
def Memory.write (m : Memory) (a : Addr) (v : Byte) : Memory :=
  if v = Config.blankByte then m.erase a.toNat else m.insert a.toNat v

/-- The canonical form of Memory: addresses strictly rising, each an address of Memory (R60), none listed as blank. -/
abbrev Memory.wf (m : Memory) : Prop :=
  m.Pairwise (fun c d => c.1 < d.1) ∧ ∀ c ∈ m, c.1 < Config.memSize ∧ c.2 ≠ Config.blankByte

/-- Byte writes at ascending addresses from `a` (R71). -/
def Memory.writeBytes : Memory → Addr → List Byte → Memory
  | m, _, [] => m
  | m, a, b :: bs => Memory.writeBytes (m.write a b) (a + 1) bs

def State.setMem (s : State) (m : Memory) : State := { s with mem := m }

/-- Reading one byte of the state's Memory (R63). -/
def State.memRead (s : State) (a : Addr) : Byte := s.mem.read a

/-! ### Registers (spec 10_state.md R20 to R32) -/

/-- `V[x]` (R11, R20). -/
def State.getV (s : State) (x : RegIx) : Byte := s.v[x.toNat]'x.isLt

/-- `V[x] <- b` (R11, R20). -/
def State.setV (s : State) (x : RegIx) (b : Byte) : State := { s with v := s.v.set x.toNat b x.isLt }

/-- VF, slot 15 (R21). -/
def State.getVF (s : State) : Byte := s.getV 0xF

/-- `VF <- b` (R21). -/
def State.setVF (s : State) (b : Byte) : State := s.setV 0xF b

/-- `pc <- t` (R11). -/
def State.setPc (s : State) (t : Word) : State := { s with pc := t }

/-- `I <- a` (R11, R29); the type holds the reduction modulo 0x1000. -/
def State.setIndex (s : State) (a : Addr) : State := { s with index := a }

/-- `DT <- b` (R32). -/
def State.setDT (s : State) (b : Byte) : State := { s with dt := b }

/-- `ST <- b` (R32). -/
def State.setST (s : State) (b : Byte) : State := { s with st := b }

/-- The framebuffer replaced (R39). -/
def State.setFb (s : State) (fb : Framebuffer) : State := { s with fb := fb }

/-- The skip of R130: two bytes further when `taken`, else no change. -/
def State.skipIf (s : State) (taken : Bool) : State := if taken then s.setPc (s.pc + 2) else s

/-- `V[0]` to `V[k-1]`, in order: the bytes STM stores (R165). -/
def State.firstRegs (s : State) (k : Nat) : List Byte := s.v.toList.take k

/-- `V[i] <- MemRead(I + i, 1)` for `i` from 0 to `k - 1`, ascending (R166). -/
def State.loadRegs (s : State) (k : Nat) : State :=
  (List.range k).foldl
    (fun t i => t.setV (BitVec.ofNat 4 i) (s.memRead (s.index + BitVec.ofNat 12 i))) s

/-! ### The stack (spec 40_flow_stack.md R124, 10_state.md R31) -/

/-- A push: store at `STACK[SP]`, then count one more. -/
def State.push (s : State) (a : Word) (h : s.sp.val < 16) : State :=
  { s with stack := s.stack.set s.sp.val a h, sp := ⟨s.sp.val + 1, Nat.succ_lt_succ h⟩ }

/-- The slot a pop reads: `STACK[SP - 1]`, the last pushed. -/
def State.top (s : State) (h : 0 < s.sp.val) : Word :=
  s.stack[s.sp.val - 1]'(by have := s.sp.isLt; omega)

/-- A pop: count one less; the slot keeps its value. -/
def State.drop (s : State) : State :=
  { s with sp := ⟨s.sp.val - 1, by have := s.sp.isLt; omega⟩ }

/-! ### The oracles (spec 42_alu.md R154, 45_timer_key.md R185) -/

/-- One draw: the next supplied value, or the free value of this draw's number when none is supplied. -/
def Draws.value {α : Type} (d : Draws α) (free : Nat → α) : α :=
  match d.supplied with
  | [] => free d.taken
  | a :: _ => a

/-- The oracle after one draw. -/
def Draws.next {α : Type} (d : Draws α) : Draws α := ⟨d.supplied.tail, d.taken + 1⟩

/-- The byte `RandByte()` returns (R154). -/
def State.randByte (s : State) : Byte := s.rand.value Config.freeRandByte

/-- The random source after `RandByte()`: one byte consumed (R154). -/
def State.consumeRand (s : State) : State := { s with rand := s.rand.next }

/-- The Keypad after a choice among several pressed keys. -/
def State.consumeKeyDraw (s : State) : State := { s with keyDraws := s.keyDraws.next }

/-! ### Step results and conditions (spec 60_exceptions.md R200 to R209) -/

/-- The number of a step result (R200). -/
def StepCode.number : StepCode → BitVec 3
  | .ok => 0
  | .waitKey => 1
  | .unknownInstruction => 2
  | .stackOverflow => 3
  | .stackUnderflow => 4
  | .memoryAddressOutOfRange _ => 5

/-- The `kind` bit of the result record (R37); 0 where it has no meaning. -/
def StepCode.kindBit : StepCode → BitVec 1
  | .memoryAddressOutOfRange .data => 1
  | _ => 0

/-- Codes 2 to 5 are the conditions; `Ok` and `WaitKey` are not (R200, R209). -/
def StepCode.isCondition : StepCode → Bool
  | .ok => false
  | .waitKey => false
  | _ => true

/-- The step ends with result `c`, for the `addr` and `word` its fetch noted (R37). The first condition is remembered
for ever (R222). -/
def State.report (s : State) (c : StepCode) : State :=
  { s with
    result := { s.result with code := c }
    firstCondition :=
      if c.isCondition && s.firstCondition.isNone then some { s.result with code := c } else s.firstCondition }

/-- The end of an instruction that completed: result `Ok` (R209). -/
def complete (s : State) : Host.Outcome State Fault Refusal := .next (s.report .ok)

/-- TAKING AN EXCEPTION, the one shared operation: `raise <Condition>` of R11. It saves nothing, transfers control
nowhere and changes nothing but the record handed to the driver (R202); `s` is the state at the start of the execute
phase, so `pc` is left at `P + 2` and the instruction has had no effect (R204). There is no return from it: no handler
runs inside the machine (R211). -/
def raise (c : StepCode) (s : State) : Host.Outcome State Fault Refusal := .next (s.report c)

/-! ### Fetch (spec 10_state.md R24 to R28) -/

/-- An instruction word can be fetched at `pc` only up to 0xFFE (R28, R70). -/
def State.canFetch (s : State) : Bool := s.pc.toNat ≤ Config.lastFetch

/-- `MemRead(pc, 2)`, big-endian (R66). -/
def State.fetchWord (s : State) : Word :=
  wordOfBytes (s.memRead (s.pc.setWidth 12)) (s.memRead (s.pc.setWidth 12 + 1))

/-- The state at the start of the execute phase: `pc` advanced by 2 (R25, R26), and the result record holding the
step's own `addr` and `word` (R37). -/
def State.beginExecute (s : State) (w : Word) : State :=
  { s with pc := s.pc + 2, result := ⟨.ok, s.pc, w⟩ }

/-- A refused fetch: nothing changes but the record, whose word is 0x0000 (R203, R208). -/
def State.fetchRefused (s : State) : State :=
  State.report { s with result := ⟨.ok, s.pc, 0x0000⟩ } (.memoryAddressOutOfRange .fetch)

/-! ### Reset (spec 10_state.md R44, R45, 70_reset_and_hazards.md R240, R243) -/

/-- The reset transaction: CORE's registers to their reset values, the collaborators untouched (R44, R243). -/
def State.coreReset (s : State) : State :=
  { s with
    v := Vector.replicate 16 0x00
    pc := Config.resetPc
    index := Config.resetI
    sp := 0
    stack := Vector.replicate 16 0x0000
    dt := 0x00
    st := 0x00 }

end Sys2Proof.Machine
end

