-- ==== Sys2Proof/Machine/Operands.lean ====
section
/-! DEFINITION. The operand forms: the widenings, the one data addressing mode and its range check, the key id, the font
digit and the decimal digits. -/

namespace Sys2Proof.Machine

/-- `zext_16` of a 12-bit immediate (R11, R93). -/
def zextAddr (nnn : Addr) : Word := nnn.setWidth 16

/-- `zext_16` of a byte (R11). -/
def zextByte16 (b : Byte) : Word := b.setWidth 16

/-- `zext_12` of a byte (R11, R162). -/
def zextByte12 (b : Byte) : Addr := b.setWidth 12

/-- The check every data access makes first: the `len` bytes from `I` all lie in Memory (R69), `I + len` computed
without reduction. -/
def State.dataInRange (s : State) (len : Nat) : Bool := s.index.toNat + len ≤ Config.memSize

/-- The key id a register names: its low four bits (R135, decision D9). -/
def keyIdOf (b : Byte) : KeyId := b.extractLsb' 0 4

/-- The digit a register names for FONT: its low four bits (R163, decision D10). -/
def fontDigit (b : Byte) : Nat := (b.extractLsb' 0 4).toNat

/-- `(FONT_BASE + 5 * d) mod 0x1000` (R163). -/
def fontAddr (base : Addr) (d : Nat) : Addr := base + BitVec.ofNat 12 (Config.fontStride * d)

/-- The three decimal digits of a byte, hundreds first (R164). -/
def bcdDigits (b : Byte) : List Byte :=
  [BitVec.ofNat 8 (b.toNat / 100), BitVec.ofNat 8 (b.toNat / 10 % 10), BitVec.ofNat 8 (b.toNat % 10)]

/-- The number of registers STM and LDM move: `x + 1` (R165, R166). -/
def regCount (x : RegIx) : Nat := x.toNat + 1

end Sys2Proof.Machine
end

