-- ==== Sys2Proof/Machine/Flags.lean ====
section
/-! DEFINITION. The flag computations: what the six flag-defining instructions write to VF (spec 10_state.md R21). -/

namespace Sys2Proof.Machine

/-- A flag as the byte VF holds: 0x01 or 0x00 (R21). -/
def flagByte (f : Bool) : Byte := if f then 0x01 else 0x00

/-- The carry of ADD: the unreduced sum exceeds 255 (R146). -/
def carryFlag (a b : Byte) : Byte := flagByte (a.toNat + b.toNat > 255)

/-- "No borrow" of SUB and SUBY: the minuend `a` is at least the subtrahend `b`, compared as values (R147, R149). -/
def noBorrowFlag (a b : Byte) : Byte := flagByte (b.toNat ≤ a.toNat)

/-- The bit SHR shifts out: the least significant (R148). -/
def shrFlag (a : Byte) : Byte := flagByte (a.getLsbD 0)

/-- The bit SHL shifts out: the most significant (R150). -/
def shlFlag (a : Byte) : Byte := flagByte (a.getLsbD 7)

/-- The collision flag DRW writes (R175). -/
def collisionFlag (c : Bool) : Byte := flagByte c

end Sys2Proof.Machine
end

