-- ==== Sys2Proof/Machine/Alu.lean ====
section
/-! DEFINITION. Register loads, arithmetic and logic (spec 42_alu.md). Operands are read from `s` before any write; the
writes stand in the order the rule lists them, so the later one holds where both name VF (R12, R153). -/

namespace Sys2Proof.Machine

/-- LDI (R140). -/
def execLdi (x : RegIx) (nn : Byte) (s : State) : Host.Outcome State Fault Refusal :=
  complete (s.setV x nn)

/-- ADDI (R141): no flag. -/
def execAddi (x : RegIx) (nn : Byte) (s : State) : Host.Outcome State Fault Refusal :=
  complete (s.setV x (s.getV x + nn))

/-- MOV (R142). -/
def execMov (x y : RegIx) (s : State) : Host.Outcome State Fault Refusal :=
  complete (s.setV x (s.getV y))

/-- OR (R143): no flag. -/
def execOr (x y : RegIx) (s : State) : Host.Outcome State Fault Refusal :=
  complete (s.setV x (s.getV x ||| s.getV y))

/-- AND (R144): no flag. -/
def execAnd (x y : RegIx) (s : State) : Host.Outcome State Fault Refusal :=
  complete (s.setV x (s.getV x &&& s.getV y))

/-- XOR (R145): no flag. -/
def execXor (x y : RegIx) (s : State) : Host.Outcome State Fault Refusal :=
  complete (s.setV x (s.getV x ^^^ s.getV y))

/-- ADD (R146): the sum, then the carry. -/
def execAdd (x y : RegIx) (s : State) : Host.Outcome State Fault Refusal :=
  complete ((s.setV x (s.getV x + s.getV y)).setVF (carryFlag (s.getV x) (s.getV y)))

/-- SUB (R147): the difference, then "no borrow". -/
def execSub (x y : RegIx) (s : State) : Host.Outcome State Fault Refusal :=
  complete ((s.setV x (s.getV x - s.getV y)).setVF (noBorrowFlag (s.getV x) (s.getV y)))

/-- SHR (R148): the flag, then the shifted value; `y` is ignored (R99). -/
def execShr (x _y : RegIx) (s : State) : Host.Outcome State Fault Refusal :=
  complete ((s.setVF (shrFlag (s.getV x))).setV x (s.getV x >>> 1))

/-- SUBY (R149): `V[y] - V[x]` into `V[y]`, then "no borrow". -/
def execSuby (x y : RegIx) (s : State) : Host.Outcome State Fault Refusal :=
  complete ((s.setV y (s.getV y - s.getV x)).setVF (noBorrowFlag (s.getV y) (s.getV x)))

/-- SHL (R150): the flag, then the shifted value; `y` is ignored (R99). -/
def execShl (x _y : RegIx) (s : State) : Host.Outcome State Fault Refusal :=
  complete ((s.setVF (shlFlag (s.getV x))).setV x (s.getV x <<< 1))

/-- RND (R151): exactly one byte drawn. -/
def execRnd (x : RegIx) (nn : Byte) (s : State) : Host.Outcome State Fault Refusal :=
  complete (s.consumeRand.setV x (s.randByte &&& nn))

end Sys2Proof.Machine
end

