-- ==== Sys2Proof/Machine/Framebuffer.lean ====
section
/-! DEFINITION. The Display's reference behaviour (spec 44_display.md R170 to R173), written as the loops of R172. -/

namespace Sys2Proof.Machine

/-- `FB[py][px]`, for `px < 64` and `py < 32`; larger coordinates are reduced (R172). -/
def Framebuffer.pixel (fb : Framebuffer) (px py : Nat) : Bool :=
  (fb[py % 32]'(Nat.mod_lt _ (by decide))).getLsbD (px % 64)

/-- `FB[py][px] <- FB[py][px] XOR 1` (R172). -/
def Framebuffer.toggle (fb : Framebuffer) (px py : Nat) : Framebuffer :=
  fb.set (py % 32) (fb[py % 32]'(Nat.mod_lt _ (by decide)) ^^^ (1#64 <<< (px % 64))) (Nat.mod_lt _ (by decide))

/-- The framebuffer with every pixel off: what `DispClear()` leaves (R170). -/
def Framebuffer.clear : Framebuffer := Vector.replicate 32 0

/-- A draw in progress: the framebuffer so far, and whether a pixel went from on to off. -/
structure Drawing where
  fb        : Framebuffer
  collision : Bool
  deriving DecidableEq, Repr

/-- Column `c` of row `r` of a sprite at `(x, y)`, `b` being the row's byte; bit 7 is the leftmost pixel (R172). -/
def drawPixel (x y r : Nat) (b : Byte) (d : Drawing) (c : Nat) : Drawing :=
  if b.getLsbD (7 - c) then
    { fb := d.fb.toggle ((x + c) % 64) ((y + r) % 32)
      collision := d.collision || d.fb.pixel ((x + c) % 64) ((y + r) % 32) }
  else d

/-- Row `r` of a sprite: its eight pixels (R172). -/
def drawRow (x y r : Nat) (b : Byte) (d : Drawing) : Drawing :=
  (List.range 8).foldl (drawPixel x y r b) d

/-- `DispDraw(x, y, a, h)`: `h` rows, row `r` read from Memory at `a + r` (R171, R172). The caller has checked that the
range lies in Memory (R175). -/
def dispDraw (m : Memory) (fb : Framebuffer) (x y : Byte) (a : Addr) (h : Nat) : Drawing :=
  (List.range h).foldl
    (fun d r => drawRow x.toNat y.toNat r (m.read (a + BitVec.ofNat 12 r)) d) ⟨fb, false⟩

end Sys2Proof.Machine
end

