-- ==== Sys2Proof/Machine/Display.lean ====
section
/-! DEFINITION. The display instructions (spec 44_display.md). -/

namespace Sys2Proof.Machine

/-- CLS (R174). -/
def execCls (s : State) : Host.Outcome State Fault Refusal := complete (s.setFb Framebuffer.clear)

/-- The draw a DRW makes on a state: the full register values, `n` rows at `I` (R175). -/
def State.drawSprite (s : State) (x y : RegIx) (n : Nibble) : Drawing :=
  dispDraw s.mem s.fb (s.getV x) (s.getV y) s.index n.toNat

/-- DRW (R175): the range check, the draw, then VF. -/
def execDrw (x y : RegIx) (n : Nibble) (s : State) : Host.Outcome State Fault Refusal :=
  if s.dataInRange n.toNat then
    complete ((s.setFb (s.drawSprite x y n).fb).setVF (collisionFlag (s.drawSprite x y n).collision))
  else raise (.memoryAddressOutOfRange .data) s

end Sys2Proof.Machine
end

