-- ==== Sys2Proof/Machine/Flow.lean ====
section
/-! DEFINITION. Control transfer and the stack (spec 40_flow_stack.md). In every meaning `s` is the state at the start of
the execute phase: `s.pc` is `P + 2` (R25). -/

namespace Sys2Proof.Machine

/-- RET (R120). -/
def execRet (s : State) : Host.Outcome State Fault Refusal :=
  if h : 0 < s.sp.val then complete (s.drop.setPc (s.top h)) else raise .stackUnderflow s

/-- JP (R121). -/
def execJp (nnn : Addr) (s : State) : Host.Outcome State Fault Refusal :=
  complete (s.setPc (zextAddr nnn))

/-- CALL (R122). -/
def execCall (nnn : Addr) (s : State) : Host.Outcome State Fault Refusal :=
  if h : s.sp.val < 16 then complete ((s.push s.pc h).setPc (zextAddr nnn)) else raise .stackOverflow s

/-- JPV0 (R123): a 16-bit sum, not reduced modulo 0x1000. -/
def execJpv0 (nnn : Addr) (s : State) : Host.Outcome State Fault Refusal :=
  complete (s.setPc (zextByte16 (s.getV 0) + zextAddr nnn))

end Sys2Proof.Machine
end

