-- ==== Sys2Proof/Machine/Index.lean ====
section
/-! DEFINITION. The index register and memory transfer (spec 43_index_memory.md). A data range is checked whole before
any byte of it is touched (R69), and `I` itself is never changed by an access (R167). -/

namespace Sys2Proof.Machine

/-- LDIX (R161). -/
def execLdix (nnn : Addr) (s : State) : Host.Outcome State Fault Refusal :=
  complete (s.setIndex nnn)

/-- ADDIX (R162): modulo 0x1000, no flag. -/
def execAddix (x : RegIx) (s : State) : Host.Outcome State Fault Refusal :=
  complete (s.setIndex (s.index + zextByte12 (s.getV x)))

/-- FONT (R163). -/
def execFont (x : RegIx) (s : State) : Host.Outcome State Fault Refusal :=
  complete (s.setIndex (fontAddr s.fontBase (fontDigit (s.getV x))))

/-- BCD (R164). -/
def execBcd (x : RegIx) (s : State) : Host.Outcome State Fault Refusal :=
  if s.dataInRange 3 then complete (s.setMem (s.mem.writeBytes s.index (bcdDigits (s.getV x))))
  else raise (.memoryAddressOutOfRange .data) s

/-- STM (R165). -/
def execStm (x : RegIx) (s : State) : Host.Outcome State Fault Refusal :=
  if s.dataInRange (regCount x) then complete (s.setMem (s.mem.writeBytes s.index (s.firstRegs (regCount x))))
  else raise (.memoryAddressOutOfRange .data) s

/-- LDM (R166). -/
def execLdm (x : RegIx) (s : State) : Host.Outcome State Fault Refusal :=
  if s.dataInRange (regCount x) then complete (s.loadRegs (regCount x))
  else raise (.memoryAddressOutOfRange .data) s

end Sys2Proof.Machine
end

