-- ==== Sys2Proof/Machine/Keypad.lean ====
section
/-! DEFINITION. The Keypad's reference behaviour (spec 45_timer_key.md R184 to R186). -/

namespace Sys2Proof.Machine

/-- `KeyPressed(k)` (R184, R186). -/
def State.keyPressed (s : State) (k : KeyId) : Bool := s.keys.getLsbD k.toNat

/-- The ids of the pressed keys, lowest first. -/
def pressedKeys (keys : BitVec 16) : List KeyId :=
  ((List.range 16).filter (fun k => keys.getLsbD k)).map (fun k => BitVec.ofNat 4 k)

/-- `KeyAny()` (R185): no key when none is pressed; a pressed key's id otherwise, with the state of the Keypad after the
call. When several are pressed the Keypad chooses among them by one draw, reduced to a position in the list of pressed
keys (assumption 4). -/
def State.keyAny (s : State) : Option (KeyId × State) :=
  match pressedKeys s.keys with
  | [] => none
  | [k] => some (k, s)
  | k :: k' :: ks =>
    some ((k :: k' :: ks).getD (s.keyDraws.value Config.freeKeyChoice % (ks.length + 2)) k, s.consumeKeyDraw)

end Sys2Proof.Machine
end

