-- ==== Sys2Proof/Machine/Skip.lean ====
section
/-! DEFINITION. The conditional skips (spec 41_skip.md). -/

namespace Sys2Proof.Machine

/-- SEI (R131). -/
def execSei (x : RegIx) (nn : Byte) (s : State) : Host.Outcome State Fault Refusal :=
  complete (s.skipIf (s.getV x == nn))

/-- SNEI (R132). -/
def execSnei (x : RegIx) (nn : Byte) (s : State) : Host.Outcome State Fault Refusal :=
  complete (s.skipIf (s.getV x != nn))

/-- SER (R133). -/
def execSer (x y : RegIx) (s : State) : Host.Outcome State Fault Refusal :=
  complete (s.skipIf (s.getV x == s.getV y))

/-- SNER (R134). -/
def execSner (x y : RegIx) (s : State) : Host.Outcome State Fault Refusal :=
  complete (s.skipIf (s.getV x != s.getV y))

/-- SKP (R135). -/
def execSkp (x : RegIx) (s : State) : Host.Outcome State Fault Refusal :=
  complete (s.skipIf (s.keyPressed (keyIdOf (s.getV x))))

/-- SKNP (R136). -/
def execSknp (x : RegIx) (s : State) : Host.Outcome State Fault Refusal :=
  complete (s.skipIf (!s.keyPressed (keyIdOf (s.getV x))))

end Sys2Proof.Machine
end

