-- ==== Sys2Proof/Machine/TimerKey.lean ====
section
/-! DEFINITION. The timer instructions and the key wait (spec 45_timer_key.md). -/

namespace Sys2Proof.Machine

/-- LDDT (R180). -/
def execLddt (x : RegIx) (s : State) : Host.Outcome State Fault Refusal :=
  complete (s.setV x s.dt)

/-- WKEY (R181), the polling contract: with a key down its id goes to `V[x]`; with none the advance is undone
(`s.pc` is `P + 2`, R25) and the step reports `WaitKey`. -/
def execWkey (x : RegIx) (s : State) : Host.Outcome State Fault Refusal :=
  match s.keyAny with
  | some (k, t) => complete (t.setV x (k.setWidth 8))
  | none => .next ((s.setPc (s.pc - 2)).report .waitKey)

/-- STDT (R182). -/
def execStdt (x : RegIx) (s : State) : Host.Outcome State Fault Refusal :=
  complete (s.setDT (s.getV x))

/-- STST (R183). -/
def execStst (x : RegIx) (s : State) : Host.Outcome State Fault Refusal :=
  complete (s.setST (s.getV x))

end Sys2Proof.Machine
end

