-- ==== Sys2Proof/Machine/Driver.lean ====
section
/-! DEFINITION. The driver's side: the timer tick and the timer port (spec 60_exceptions.md R215, R216, 10_state.md R42),
the debug port (R43), the key states and reset, and how the events of the schedule reach the machine between steps
(00_scope.md R13). -/

namespace Sys2Proof.Machine

/-- A countdown timer after one tick: one less, and zero stays zero (R215). -/
def tickTimer (t : Byte) : Byte := if t = 0 then 0 else t - 1

/-- The tick: each timer on its own test (R215). -/
def State.tick (s : State) : State := (s.setDT (tickTimer s.dt)).setST (tickTimer s.st)

/-- The timer port's read of `DT` (R42). -/
def State.getDelayTimer (s : State) : Byte := s.dt

/-- The timer port's read of `ST` (R42). -/
def State.getSoundTimer (s : State) : Byte := s.st

/-- The key states replaced by the environment (R186). -/
def State.setKeys (s : State) (k : BitVec 16) : State := { s with keys := k }

/-- One event of the outside (R13). -/
def State.deliver (s : State) : DriverEvent → State
  | .tick => s.tick
  | .setDelayTimer b => s.setDT b
  | .setSoundTimer b => s.setST b
  | .setKeys k => s.setKeys k
  | .reset => s.coreReset

/-- The events of one gap between two steps, in their order. -/
def State.deliverAll (s : State) (es : List DriverEvent) : State := es.foldl State.deliver s

/-- The state when the next step starts: the events of this gap delivered and taken off the schedule. -/
def State.betweenSteps (s : State) : State :=
  match s.schedule with
  | [] => s
  | es :: rest => State.deliverAll { s with schedule := rest } es

/-- What the debug port shows (R43, decision D23). -/
structure DebugView where
  v     : Vector Byte 16
  pc    : Word
  index : Addr
  sp    : Fin 17
  stack : Vector Word 16
  deriving DecidableEq, Repr

/-- Reading the debug port; it writes nothing (R43). -/
def State.debugView (s : State) : DebugView := ⟨s.v, s.pc, s.index, s.sp, s.stack⟩

end Sys2Proof.Machine
end

