-- ==== Sys2Proof/Machine/CoreStep.lean ====
section
/-! DEFINITION. One step transaction of CORE (spec 10_state.md R24, R36; 60_exceptions.md R210): the fetch check, the
fetch, the advance, and the execute phase. -/

namespace Sys2Proof.Machine

/-- An unrecognised word: nothing but the advance already made, and the report (R97, R205). -/
def execUnrecognised (s : State) : Host.Outcome State Fault Refusal := raise .unknownInstruction s

/-- The execute phase of a fetched word (R24, R210). -/
def executeWord (w : Word) (s : State) : Host.Outcome State Fault Refusal :=
  match decode w with
  | some i => exec i s
  | none => execUnrecognised s

/-- The step transaction (R24): `s` is the state when the step starts. -/
def coreStep (s : State) : Host.Outcome State Fault Refusal :=
  if s.canFetch then executeWord s.fetchWord (s.beginExecute s.fetchWord) else .next s.fetchRefused

/-- The address the next step fetches from, moved to the program's start where nothing can be fetched. -/
def State.fetchable (s : State) : State := if s.betweenSteps.canFetch then s else s.setPc Config.resetPc

end Sys2Proof.Machine
end

