-- ==== Sys2Proof/Machine/Step.lean ====
section
/-! DEFINITION. The machine's step: what the outside does before this step (00_scope.md R13), then CORE's step
transaction (10_state.md R24). -/

namespace Sys2Proof.Machine

/-- One step of the closed system. -/
def step (s : State) : Host.Outcome State Fault Refusal := coreStep s.betweenSteps

/-- `s` with the instruction word `w` stored where the next step fetches, so that `step` runs it: the two bytes, high
byte first (R66), at the `pc` the next step starts with. Where that `pc` cannot be fetched from, `pc` is set to the
program's start as well. The table's bits above `nbits` are zero. -/
def State.withFetchWord (s : State) (nbits w : Nat) : State :=
  let t := s.fetchable
  t.setMem (t.mem.writeBytes (t.betweenSteps.pc.setWidth 12)
    [highByte (BitVec.ofNat 16 (w % 2 ^ nbits)), lowByte (BitVec.ofNat 16 (w % 2 ^ nbits))])

end Sys2Proof.Machine
end

