-- ==== Sys2Proof/Safety.lean ====
section
/-! DEFINITION. What counts as a safe run, in the terms claims use, and the invariants of reachable states. -/

namespace Sys2Proof.Machine

/-- No step so far has reported a condition (spec 60_exceptions.md R222). -/
def State.clean (s : State) : Bool := s.firstCondition.isNone

/-- The instruction pointer and the live and dead stack slots stay in the bounds the spec derives: `pc` is at most
0x10FE (10_state.md R28) and every slot at most 0x1000 (R34). -/
def State.pcBounded (s : State) : Prop := s.pc.toNat ≤ 0x10FE ∧ ∀ (j : Nat) (h : j < 16), (s.stack[j]'h).toNat ≤ 0x1000

/-- What every step keeps: Memory in its canonical form, and the bounds of `pc` and the stack. -/
def State.Inv (s : State) : Prop := s.mem.wf ∧ s.pcBounded

/-- The program has finished: the word at `pc` is a jump to `pc` itself (70_reset_and_hazards.md R251, a convention of
programs). -/
def State.finished (s : State) : Prop :=
  s.canFetch = true ∧ ∃ nnn : Addr, decode s.fetchWord = some (.jp nnn) ∧ zextAddr nnn = s.pc

/-- The machine can make no further progress: the fetch is refused, and will be for ever (60_exceptions.md R203). -/
def State.fetchStuck (s : State) : Prop := s.canFetch = false

end Sys2Proof.Machine
end

