-- ==== Sys2Proof/Certificates/Slice0/Obligations.lean ====
section
/-! DEFINITION. The statements. An instruction's statement says its encoding (which words are it, with which fields), that
`exec` answers a next state, what that state holds, and its frame. `s` is the state at the start of the execute phase, so
`s.pc` is `P + 2` (spec 10_state.md R25); StepIsFetchAdvanceExecute says how a step reaches it. -/

namespace Sys2Proof.Spec

open Sys2Proof.Machine

/-! ### The words of a row (30_encoding.md R91, R96) -/

/-- Every word `w` with `(w AND mask) = match` decodes to the instruction `f w`. -/
def Words (mask pattern : Word) (f : Word → Instr) : Prop := ∀ w : Word, w &&& mask = pattern → decode w = some (f w)

def xOf (w : Word) : RegIx := w.extractLsb' 8 4
def yOf (w : Word) : RegIx := w.extractLsb' 4 4
def nOf (w : Word) : Nibble := w.extractLsb' 0 4
def nnOf (w : Word) : Byte := w.extractLsb' 0 8
def nnnOf (w : Word) : Addr := w.extractLsb' 0 12

/-! ### Frames: what a state `t` has as the state `s` has it -/

def SameRegs (s t : State) : Prop := ∀ r, t.getV r = s.getV r
def SameRegsBut (x : RegIx) (s t : State) : Prop := ∀ r, r ≠ x → t.getV r = s.getV r
def SameStack (s t : State) : Prop := t.sp = s.sp ∧ t.stack = s.stack
def SameTimers (s t : State) : Prop := t.dt = s.dt ∧ t.st = s.st
def SameMem (s t : State) : Prop := ∀ a, t.memRead a = s.memRead a

/-- Memory outside the `len` bytes from `I`, the address the storing instructions store to. -/
def SameMemOutside (len : Nat) (s t : State) : Prop :=
  ∀ a : Addr, ¬ (s.index.toNat ≤ a.toNat ∧ a.toNat < s.index.toNat + len) → t.memRead a = s.memRead a

def SameDisplay (s t : State) : Prop := t.fb = s.fb
def SameOracles (s t : State) : Prop := t.rand = s.rand ∧ t.keyDraws = s.keyDraws

/-- What no instruction changes: the keys, the parameter, the schedule, and the record's own address and word. -/
def SameOutside (s t : State) : Prop :=
  t.keys = s.keys ∧ t.fontBase = s.fontBase ∧ t.schedule = s.schedule ∧ t.result.addr = s.result.addr ∧
  t.result.word = s.result.word

/-- The step reports `Ok`, which is no condition (60_exceptions.md R209). -/
def ReportsOk (s t : State) : Prop := t.result.code = .ok ∧ t.firstCondition = s.firstCondition

/-- Everything but the general registers. -/
def SameButRegs (s t : State) : Prop :=
  t.pc = s.pc ∧ t.index = s.index ∧ SameStack s t ∧ SameTimers s t ∧ SameMem s t ∧ SameDisplay s t ∧
  SameOracles s t ∧ SameOutside s t ∧ ReportsOk s t

/-- Everything but the instruction pointer. -/
def SameButPc (s t : State) : Prop :=
  SameRegs s t ∧ t.index = s.index ∧ SameStack s t ∧ SameTimers s t ∧ SameMem s t ∧ SameDisplay s t ∧
  SameOracles s t ∧ SameOutside s t ∧ ReportsOk s t

/-- Everything but the index register. -/
def SameButIndex (s t : State) : Prop :=
  SameRegs s t ∧ t.pc = s.pc ∧ SameStack s t ∧ SameTimers s t ∧ SameMem s t ∧ SameDisplay s t ∧
  SameOracles s t ∧ SameOutside s t ∧ ReportsOk s t

/-- Everything but Memory. -/
def SameButMem (s t : State) : Prop :=
  SameRegs s t ∧ t.pc = s.pc ∧ t.index = s.index ∧ SameStack s t ∧ SameTimers s t ∧ SameDisplay s t ∧
  SameOracles s t ∧ SameOutside s t ∧ ReportsOk s t

/-- The step reports the condition `c` and nothing else happens in the execute phase (60_exceptions.md R204): every
part is as before, and the record is remembered if it is the first condition (R222). -/
def OnlyReports (c : StepCode) (s t : State) : Prop :=
  SameRegs s t ∧ t.pc = s.pc ∧ t.index = s.index ∧ SameStack s t ∧ SameTimers s t ∧ SameMem s t ∧ SameDisplay s t ∧
  SameOracles s t ∧ SameOutside s t ∧ t.result.code = c ∧ t.firstCondition = some (s.firstCondition.getD t.result)

/-- `exec i s` answers a next state of which `Q` holds. -/
def Next (i : Instr) (s : State) (Q : State → Prop) : Prop := ∃ t, exec i s = .next t ∧ Q t

/-- The flag as a number: 1 when `p`, else 0. -/
def flag (p : Prop) [Decidable p] : Nat := if p then 1 else 0

/-- A bit of the sprite that DRW draws, at screen position `(px, py)`: the sprite's column and row there, counted from
`(x mod 64, y mod 32)` with wraparound, lie in its 8 columns and `n` rows, and that bit of that row's byte is 1
(44_display.md R171, R172). -/
def spriteBit (s : State) (x y : RegIx) (n : Nibble) (px py : Nat) : Bool :=
  let c := (px + 64 - (s.getV x).toNat % 64) % 64
  let r := (py + 32 - (s.getV y).toNat % 32) % 32
  decide (c < 8) && decide (r < n.toNat) && (s.memRead (s.index + BitVec.ofNat 12 r)).getLsbD (7 - c)

/-- The row of the table of 10_state.md R27 for an instruction that was fetched: how `t` has `pc`, `s.pc` being `P + 2`. The
last line is the table's own "any instruction not listed", which takes in the ones that report a data range. -/
def PcRow (i : Instr) (s t : State) : Prop :=
  match i with
  | .jp nnn => t.pc.toNat = nnn.toNat
  | .call nnn => if s.sp.val ≤ 15 then t.pc.toNat = nnn.toNat else t.pc = s.pc
  | .ret =>
    if h : 1 ≤ s.sp.val then t.pc = s.stack[s.sp.val - 1]'(by have := s.sp.isLt; omega) else t.pc = s.pc
  | .jpv0 nnn => t.pc.toNat = (s.getV 0).toNat + nnn.toNat
  | .sei x nn => t.pc = if (s.getV x).toNat = nn.toNat then s.pc + 2 else s.pc
  | .snei x nn => t.pc = if (s.getV x).toNat = nn.toNat then s.pc else s.pc + 2
  | .ser x y => t.pc = if (s.getV x).toNat = (s.getV y).toNat then s.pc + 2 else s.pc
  | .sner x y => t.pc = if (s.getV x).toNat = (s.getV y).toNat then s.pc else s.pc + 2
  | .skp x => t.pc = if s.keys.getLsbD ((s.getV x).toNat % 16) then s.pc + 2 else s.pc
  | .sknp x => t.pc = if s.keys.getLsbD ((s.getV x).toNat % 16) then s.pc else s.pc + 2
  | .wkey _ => t.pc = if s.keys = 0 then s.pc - 2 else s.pc
  | .cls | .ldi _ _ | .addi _ _ | .mov _ _ | .or _ _ | .and _ _ | .xor _ _ | .add _ _ | .sub _ _ | .shr _ _ | .suby _ _
  | .shl _ _ | .ldix _ | .rnd _ _ | .drw _ _ _ | .lddt _ | .stdt _ | .stst _ | .addix _ | .font _ | .bcd _ | .stm _
  | .ldm _ => t.pc = s.pc

end Sys2Proof.Spec

section

open Sys2Proof Sys2Proof.Machine Sys2Proof.Spec

/-! ### Encoding -/

/-- Decoding the word of an instruction gives it back, for every instruction and every operand. That SHR and SHL have an
operand `y` to give back is the model's choice (assumption 23). -/
def Obligations.DecodeOfEncode : Prop := ∀ i : Instr, decode (encode i) = some i

/-- The word of the instruction a word decodes to is that word: no bit of a word is dropped. That is the model's choice,
not a rule's: SHR and SHL keep their ignored `y` field (assumption 23; by R99 the words `8x06` to `8xF6` are one
instruction), and every fixed nibble of a pattern is significant (assumption 20, the spec's decision D3). -/
def Obligations.EncodeOfDecode : Prop := ∀ (w : Word) (i : Instr), decode w = some i → encode i = w

/-- R96: a word is the instruction of a row exactly when it agrees with the row's `match` under the row's `mask`, for
each of the rows; so no word agrees with two rows of different mnemonics, and one that agrees with none is unrecognised.
That the mask's fixed nibbles are all significant is the spec's decision D3 (R94; assumption 20). -/
def Obligations.DecodeFollowsOpcodeMap : Prop :=
  ∀ (w : Word) (r : OpcodeRow), r ∈ opcodeMap → (r.admits w = true ↔ ∃ i, decode w = some i ∧ i.mnemonic = r.mnemonic)

/-- The unrecognised words are those that R97 lists group by group. That a pattern's nibbles are all significant is the
spec's decision D3. -/
def Obligations.UnrecognisedWordsByGroup : Prop := ∀ w : Word, (decode w).isSome = wellFormedWord w

/-- A word written out for some of the encodings of R96 and R103 decodes to the instruction it stands for. -/
def Obligations.WrittenWordsDecode : Prop :=
  decode 0x1234 = some (.jp 0x234) ∧ decode 0x6005 = some (.ldi 0 5) ∧ decode 0x8014 = some (.add 0 1) ∧
  decode 0x00EE = some .ret ∧ decode 0xD125 = some (.drw 1 2 5) ∧ decode 0xF265 = some (.ldm 2) ∧
  decode 0xE59E = some (.skp 5) ∧ decode 0xF30A = some (.wkey 3) ∧ decode 0xA2F0 = some (.ldix 0x2F0) ∧
  decode 0x3A42 = some (.sei 0xA 0x42)

/-! ### Register loads, arithmetic and logic (42_alu.md) -/

/-- LDI, R140. -/
def Obligations.LoadImmediateWritesVx : Prop :=
  Words 0xF000 0x6000 (fun w => .ldi (xOf w) (nnOf w)) ∧
  ∀ s x nn, Next (.ldi x nn) s fun t => t.getV x = nn ∧ SameRegsBut x s t ∧ SameButRegs s t

/-- ADDI, R141: no flag, also when the sum exceeds 255. -/
def Obligations.AddImmediateWrapsWithoutFlag : Prop :=
  Words 0xF000 0x7000 (fun w => .addi (xOf w) (nnOf w)) ∧
  ∀ s x nn, Next (.addi x nn) s fun t =>
    (t.getV x).toNat = ((s.getV x).toNat + nn.toNat) % 256 ∧ SameRegsBut x s t ∧ SameButRegs s t

/-- MOV, R142. -/
def Obligations.MoveCopiesVyToVx : Prop :=
  Words 0xF00F 0x8000 (fun w => .mov (xOf w) (yOf w)) ∧
  ∀ s x y, Next (.mov x y) s fun t => t.getV x = s.getV y ∧ SameRegsBut x s t ∧ SameButRegs s t

/-- OR, AND and XOR, R143, R144, R145: bit by bit, and no flag. -/
def Obligations.LogicOpsActBitByBit : Prop :=
  Words 0xF00F 0x8001 (fun w => .or (xOf w) (yOf w)) ∧ Words 0xF00F 0x8002 (fun w => .and (xOf w) (yOf w)) ∧
  Words 0xF00F 0x8003 (fun w => .xor (xOf w) (yOf w)) ∧
  ∀ s x y,
    (Next (.or x y) s fun t =>
      (∀ k, (t.getV x).getLsbD k = ((s.getV x).getLsbD k || (s.getV y).getLsbD k)) ∧ SameRegsBut x s t ∧ SameButRegs s t) ∧
    (Next (.and x y) s fun t =>
      (∀ k, (t.getV x).getLsbD k = ((s.getV x).getLsbD k && (s.getV y).getLsbD k)) ∧ SameRegsBut x s t ∧ SameButRegs s t) ∧
    (Next (.xor x y) s fun t =>
      (∀ k, (t.getV x).getLsbD k = ((s.getV x).getLsbD k != (s.getV y).getLsbD k)) ∧ SameRegsBut x s t ∧ SameButRegs s t)

/-- ADD, R146: the sum modulo 256, then the carry in VF. That the carry is what stays when `x = 0xF` is the spec's decision
D7 (R153; assumption 13). -/
def Obligations.AddWritesSumThenCarry : Prop :=
  Words 0xF00F 0x8004 (fun w => .add (xOf w) (yOf w)) ∧
  ∀ s x y, Next (.add x y) s fun t =>
    (x ≠ 0xF → (t.getV x).toNat = ((s.getV x).toNat + (s.getV y).toNat) % 256) ∧
    (t.getV 0xF).toNat = flag ((s.getV x).toNat + (s.getV y).toNat > 255) ∧
    (∀ r, r ≠ x → r ≠ 0xF → t.getV r = s.getV r) ∧ SameButRegs s t

/-- SUB, R147: `V[x] - V[y]` modulo 256, then "no borrow" in VF, comparing values. That the flag is what stays when
`x = 0xF` is the spec's decision D7 (R153; assumption 13). -/
def Obligations.SubWritesDifferenceThenNoBorrow : Prop :=
  Words 0xF00F 0x8005 (fun w => .sub (xOf w) (yOf w)) ∧
  ∀ s x y, Next (.sub x y) s fun t =>
    (x ≠ 0xF → ((t.getV x).toNat : Int) = ((s.getV x).toNat - (s.getV y).toNat : Int) % 256) ∧
    (t.getV 0xF).toNat = flag ((s.getV x).toNat ≥ (s.getV y).toNat) ∧
    (∀ r, r ≠ x → r ≠ 0xF → t.getV r = s.getV r) ∧ SameButRegs s t

/-- SUBY, R149: `V[y] - V[x]` into `V[y]`, `V[x]` left, then "no borrow"; the effect of SUB with the fields exchanged.
That the flag is what stays when `y = 0xF` is the spec's decision D7 (R153; assumption 13). -/
def Obligations.SubyWritesVyThenNoBorrow : Prop :=
  Words 0xF00F 0x8007 (fun w => .suby (xOf w) (yOf w)) ∧
  (∀ s x y, Next (.suby x y) s fun t =>
    (y ≠ 0xF → ((t.getV y).toNat : Int) = ((s.getV y).toNat - (s.getV x).toNat : Int) % 256) ∧
    (t.getV 0xF).toNat = flag ((s.getV y).toNat ≥ (s.getV x).toNat) ∧
    (∀ r, r ≠ y → r ≠ 0xF → t.getV r = s.getV r) ∧ SameButRegs s t) ∧
  ∀ s x y, exec (.suby x y) s = exec (.sub y x) s

/-- SHR and SHL, R148, R150, every `y` alike (R99): the bit shifted out in VF, then the shifted value. That the shifted
value is the one that stays when `x = 0xF` is the spec's decision D7. -/
def Obligations.ShiftsWriteFlagThenValue : Prop :=
  Words 0xF00F 0x8006 (fun w => .shr (xOf w) (yOf w)) ∧ Words 0xF00F 0x800E (fun w => .shl (xOf w) (yOf w)) ∧
  ∀ s x y,
    (Next (.shr x y) s fun t =>
      (t.getV x).toNat = (s.getV x).toNat / 2 ∧ (x ≠ 0xF → (t.getV 0xF).toNat = (s.getV x).toNat % 2) ∧
      (∀ r, r ≠ x → r ≠ 0xF → t.getV r = s.getV r) ∧ SameButRegs s t) ∧
    (Next (.shl x y) s fun t =>
      (t.getV x).toNat = 2 * (s.getV x).toNat % 256 ∧ (x ≠ 0xF → (t.getV 0xF).toNat = (s.getV x).toNat / 128) ∧
      (∀ r, r ≠ x → r ≠ 0xF → t.getV r = s.getV r) ∧ SameButRegs s t)

/-- RND, R151: `V[x]` is the byte the random source gives, whichever it is, masked by `nn`; exactly one byte is
consumed. What the source holds (`rand.supplied`, `rand.taken`) and that a seeded one gives its first byte are the model's
choice (assumption 3), made under the spec's decision D18. -/
def Obligations.RandomByteIsMaskedAndConsumed : Prop :=
  Words 0xF000 0xC000 (fun w => .rnd (xOf w) (nnOf w)) ∧
  ∀ s x nn, Next (.rnd x nn) s fun t =>
    t.getV x = s.randByte &&& nn ∧ SameRegsBut x s t ∧ t.rand.taken = s.rand.taken + 1 ∧
    t.rand.supplied = s.rand.supplied.tail ∧ (∀ b bs, s.rand.supplied = b :: bs → s.randByte = b) ∧
    t.keyDraws = s.keyDraws ∧ t.pc = s.pc ∧ t.index = s.index ∧ SameStack s t ∧ SameTimers s t ∧ SameMem s t ∧
    SameDisplay s t ∧ SameOutside s t ∧ ReportsOk s t

/-- After an instruction that defines a flag VF is 0 or 1, except where its other write names VF and stands (the shifts
with `x = 0xF`, decision D7); and no other instruction writes VF unless its operands name it (10_state.md R21). -/
def Obligations.VfHoldsAFlagOrIsNamed : Prop :=
  ∀ (i : Instr) (s t : State), exec i s = .next t → t.getV 0xF ≠ s.getV 0xF →
    (t.getV 0xF).toNat ≤ 1 ∨ i = .ldi 0xF (t.getV 0xF) ∨ (∃ nn, i = .addi 0xF nn) ∨ (∃ y, i = .mov 0xF y) ∨
    (∃ y, i = .or 0xF y) ∨ (∃ y, i = .and 0xF y) ∨ (∃ y, i = .xor 0xF y) ∨ (∃ y, i = .shr 0xF y) ∨
    (∃ y, i = .shl 0xF y) ∨ (∃ nn, i = .rnd 0xF nn) ∨ i = .lddt 0xF ∨ i = .wkey 0xF ∨ i = .ldm 0xF

/-! ### Control transfer and the stack (40_flow_stack.md) -/

/-- JP, R121. -/
def Obligations.JumpSetsPc : Prop :=
  Words 0xF000 0x1000 (fun w => .jp (nnnOf w)) ∧
  ∀ s nnn, Next (.jp nnn) s fun t => t.pc.toNat = nnn.toNat ∧ SameButPc s t

/-- CALL, R122, R206: the address after the call goes to the slot `SP`, and to no other (the slot is the spec's decision
D13, assumption 17); with the stack full nothing happens but the report (that `pc` stays `P + 2` there is the spec's
decision D4, assumption 12). -/
def Obligations.CallPushesReturnAddress : Prop :=
  Words 0xF000 0x2000 (fun w => .call (nnnOf w)) ∧
  (∀ s nnn, s.sp.val ≤ 15 → Next (.call nnn) s fun t =>
    t.sp.val = s.sp.val + 1 ∧ (∀ (j : Nat) (h : j < 16), t.stack[j] = if j = s.sp.val then s.pc else s.stack[j]) ∧
    t.pc.toNat = nnn.toNat ∧ SameRegs s t ∧ t.index = s.index ∧ SameTimers s t ∧ SameMem s t ∧ SameDisplay s t ∧
    SameOracles s t ∧ SameOutside s t ∧ ReportsOk s t) ∧
  ∀ s nnn, s.sp.val = 16 → Next (.call nnn) s fun t => OnlyReports .stackOverflow s t

/-- RET, R120, R207: the last pushed slot goes to `pc` and keeps its value; with the stack empty nothing happens but the
report (decision D4, assumption 12). Which slot is read and that it keeps its value are the spec's decision D13
(assumption 17). -/
def Obligations.ReturnPopsIntoPc : Prop :=
  Words 0xFFFF 0x00EE (fun _ => .ret) ∧
  (∀ s, ∀ h : 1 ≤ s.sp.val, Next .ret s fun t =>
    t.sp.val = s.sp.val - 1 ∧ t.pc = s.stack[s.sp.val - 1]'(by have := s.sp.isLt; omega) ∧ t.stack = s.stack ∧
    SameRegs s t ∧ t.index = s.index ∧ SameTimers s t ∧ SameMem s t ∧ SameDisplay s t ∧ SameOracles s t ∧
    SameOutside s t ∧ ReportsOk s t) ∧
  ∀ s, s.sp.val = 0 → Next .ret s fun t => OnlyReports .stackUnderflow s t

/-- JPV0, R123: the 16-bit sum. That it is not reduced to 12 bits is the spec's decision D15 (assumption 18). -/
def Obligations.JumpWithOffsetAddsV0 : Prop :=
  Words 0xF000 0xB000 (fun w => .jpv0 (nnnOf w)) ∧
  ∀ s nnn, Next (.jpv0 nnn) s fun t => t.pc.toNat = (s.getV 0).toNat + nnn.toNat ∧ SameButPc s t

/-- Call and return (example E5): a call at `P` followed by a return at its target leaves `pc = P + 2`, the stack pointer
restored, and all the rest as it was but for the one slot the call wrote (that slot is `SP`, the spec's decision D13,
assumption 17). -/
def Obligations.CallThenReturnRoundTrip : Prop :=
  ∀ (s : State) (nnn : Addr), s.canFetch = true → decode s.fetchWord = some (.call nnn) → s.sp.val ≤ 15 →
    (s.setPc (nnn.setWidth 16)).canFetch = true → (s.setPc (nnn.setWidth 16)).fetchWord = 0x00EE →
    ∃ t u, coreStep s = .next t ∧ coreStep t = .next u ∧ u.pc = s.pc + 2 ∧ u.sp = s.sp ∧
      (∀ (j : Nat) (h : j < 16), j ≠ s.sp.val → u.stack[j] = s.stack[j]) ∧ SameRegs s u ∧ SameMem s u ∧
      u.index = s.index ∧ SameTimers s u ∧ SameDisplay s u ∧ SameOracles s u ∧ u.keys = s.keys ∧ ReportsOk s u

/-! ### Skips (41_skip.md) -/

/-- SEI and SNEI, R131, R132: one skips exactly when the other does not. -/
def Obligations.SkipOnImmediate : Prop :=
  Words 0xF000 0x3000 (fun w => .sei (xOf w) (nnOf w)) ∧ Words 0xF000 0x4000 (fun w => .snei (xOf w) (nnOf w)) ∧
  ∀ s x nn,
    (Next (.sei x nn) s fun t => t.pc = (if (s.getV x).toNat = nn.toNat then s.pc + 2 else s.pc) ∧ SameButPc s t) ∧
    (Next (.snei x nn) s fun t => t.pc = (if (s.getV x).toNat = nn.toNat then s.pc else s.pc + 2) ∧ SameButPc s t)

/-- SER and SNER, R133, R134. -/
def Obligations.SkipOnRegisters : Prop :=
  Words 0xF00F 0x5000 (fun w => .ser (xOf w) (yOf w)) ∧ Words 0xF00F 0x9000 (fun w => .sner (xOf w) (yOf w)) ∧
  ∀ s x y,
    (Next (.ser x y) s fun t =>
      t.pc = (if (s.getV x).toNat = (s.getV y).toNat then s.pc + 2 else s.pc) ∧ SameButPc s t) ∧
    (Next (.sner x y) s fun t =>
      t.pc = (if (s.getV x).toNat = (s.getV y).toNat then s.pc else s.pc + 2) ∧ SameButPc s t)

/-- SKP and SKNP, R135, R136. That the key id is the low four bits of `V[x]` is the spec's decision D9. -/
def Obligations.SkipOnKey : Prop :=
  Words 0xF0FF 0xE09E (fun w => .skp (xOf w)) ∧ Words 0xF0FF 0xE0A1 (fun w => .sknp (xOf w)) ∧
  ∀ s x,
    (Next (.skp x) s fun t =>
      t.pc = (if s.keys.getLsbD ((s.getV x).toNat % 16) then s.pc + 2 else s.pc) ∧ SameButPc s t) ∧
    (Next (.sknp x) s fun t =>
      t.pc = (if s.keys.getLsbD ((s.getV x).toNat % 16) then s.pc else s.pc + 2) ∧ SameButPc s t)

/-! ### Index register and memory transfer (43_index_memory.md) -/

/-- LDIX, R161. -/
def Obligations.LoadIndexImmediate : Prop :=
  Words 0xF000 0xA000 (fun w => .ldix (nnnOf w)) ∧
  ∀ s nnn, Next (.ldix nnn) s fun t => t.index = nnn ∧ SameButIndex s t

/-- ADDIX, R162: modulo 0x1000, no flag. -/
def Obligations.AddToIndexWraps : Prop :=
  Words 0xF0FF 0xF01E (fun w => .addix (xOf w)) ∧
  ∀ s x, Next (.addix x) s fun t =>
    t.index.toNat = (s.index.toNat + (s.getV x).toNat) % 0x1000 ∧ SameButIndex s t

/-- FONT, R163: the glyph's address for whatever `FONT_BASE` the machine has. The base is an open parameter and the low
four bits of `V[x]` as the digit are the spec's decision D10 (assumption 5). -/
def Obligations.FontPointsAtGlyph : Prop :=
  Words 0xF0FF 0xF029 (fun w => .font (xOf w)) ∧
  ∀ s x, Next (.font x) s fun t =>
    t.index.toNat = (s.fontBase.toNat + 5 * ((s.getV x).toNat % 16)) % 0x1000 ∧ SameButIndex s t

/-- BCD, R164. That a range past 0xFFF reports with nothing stored is the spec's decision D6. -/
def Obligations.BcdStoresThreeDigits : Prop :=
  Words 0xF0FF 0xF033 (fun w => .bcd (xOf w)) ∧
  (∀ s x, s.index.toNat + 3 ≤ 0x1000 → Next (.bcd x) s fun t =>
    (t.memRead s.index).toNat = (s.getV x).toNat / 100 ∧
    (t.memRead (s.index + 1)).toNat = (s.getV x).toNat / 10 % 10 ∧
    (t.memRead (s.index + 2)).toNat = (s.getV x).toNat % 10 ∧ SameMemOutside 3 s t ∧ SameButMem s t) ∧
  ∀ s x, s.index.toNat + 3 > 0x1000 → Next (.bcd x) s fun t => OnlyReports (.memoryAddressOutOfRange .data) s t

/-- STM, R165: `V[0]` to `V[x]`, inclusive, ascending from `I`; `I` unchanged. Out of range: decision D6. -/
def Obligations.StoreRegistersAscending : Prop :=
  Words 0xF0FF 0xF055 (fun w => .stm (xOf w)) ∧
  (∀ s x, s.index.toNat + x.toNat + 1 ≤ 0x1000 → Next (.stm x) s fun t =>
    (∀ k : RegIx, k.toNat ≤ x.toNat → t.memRead (s.index + k.setWidth 12) = s.getV k) ∧
    SameMemOutside (x.toNat + 1) s t ∧ SameButMem s t) ∧
  ∀ s x, s.index.toNat + x.toNat + 1 > 0x1000 → Next (.stm x) s fun t => OnlyReports (.memoryAddressOutOfRange .data) s t

/-- LDM, R166: `V[0]` to `V[x]` from ascending addresses from `I`; the other registers, `I` and Memory unchanged. Out of
range: decision D6. -/
def Obligations.LoadRegistersAscending : Prop :=
  Words 0xF0FF 0xF065 (fun w => .ldm (xOf w)) ∧
  (∀ s x, s.index.toNat + x.toNat + 1 ≤ 0x1000 → Next (.ldm x) s fun t =>
    (∀ k : RegIx, k.toNat ≤ x.toNat → t.getV k = s.memRead (s.index + k.setWidth 12)) ∧
    (∀ k : RegIx, x.toNat < k.toNat → t.getV k = s.getV k) ∧ SameButRegs s t) ∧
  ∀ s x, s.index.toNat + x.toNat + 1 > 0x1000 → Next (.ldm x) s fun t => OnlyReports (.memoryAddressOutOfRange .data) s t

/-- The dump and load round trip (example E7), for every last register: after a STM, whatever the registers become, a LDM
with the same `I` brings `V[0]` to `V[x]` back. -/
def Obligations.StoreThenLoadRestoresRegisters : Prop :=
  ∀ (s t u : State) (x : RegIx), s.index.toNat + x.toNat + 1 ≤ 0x1000 → exec (.stm x) s = .next t →
    u.index = t.index → u.mem = t.mem →
    Next (.ldm x) u fun z => ∀ k : RegIx, k.toNat ≤ x.toNat → z.getV k = s.getV k

/-! ### Display (44_display.md) -/

/-- CLS, R174. -/
def Obligations.ClearTurnsEveryPixelOff : Prop :=
  Words 0xFFFF 0x00E0 (fun _ => .cls) ∧
  ∀ s, Next .cls s fun t =>
    (∀ px py, px < 64 → py < 32 → t.fb.pixel px py = false) ∧ SameRegs s t ∧ t.pc = s.pc ∧ t.index = s.index ∧
    SameStack s t ∧ SameTimers s t ∧ SameMem s t ∧ SameOracles s t ∧ SameOutside s t ∧ ReportsOk s t

/-- DRW, R171, R172, R175: every pixel of the screen is XORed with the sprite's bit there, with wraparound on both axes,
and VF is 1 exactly when some pixel goes from on to off. Wrap per pixel and the bit order are the spec's decision D17, the
range check its D6. -/
def Obligations.DrawXorsSpriteAndReportsCollision : Prop :=
  Words 0xF000 0xD000 (fun w => .drw (xOf w) (yOf w) (nOf w)) ∧
  (∀ s x y n, s.index.toNat + n.toNat ≤ 0x1000 → Next (.drw x y n) s fun t =>
    (∀ px py, px < 64 → py < 32 → t.fb.pixel px py = (s.fb.pixel px py != spriteBit s x y n px py)) ∧
    (t.getV 0xF = 1 ∨ t.getV 0xF = 0) ∧
    (t.getV 0xF = 1 ↔ ∃ px py, px < 64 ∧ py < 32 ∧ s.fb.pixel px py = true ∧ t.fb.pixel px py = false) ∧
    SameRegsBut 0xF s t ∧ t.pc = s.pc ∧ t.index = s.index ∧ SameStack s t ∧ SameTimers s t ∧ SameMem s t ∧
    SameOracles s t ∧ SameOutside s t ∧ ReportsOk s t) ∧
  ∀ s x y n, s.index.toNat + n.toNat > 0x1000 →
    Next (.drw x y n) s fun t => OnlyReports (.memoryAddressOutOfRange .data) s t

/-- Drawing the same sprite twice at the same place restores the framebuffer (R175, corner cases; the place is the same
when neither coordinate is VF, which the first draw writes), on the reference Display (decision D17, assumption 11). -/
def Obligations.DrawTwiceRestoresDisplay : Prop :=
  ∀ (s t u : State) (x y : RegIx) (n : Nibble), x ≠ 0xF → y ≠ 0xF → s.index.toNat + n.toNat ≤ 0x1000 →
    exec (.drw x y n) s = .next t → exec (.drw x y n) t = .next u → u.fb = s.fb

/-! ### Timers and keys (45_timer_key.md) -/

/-- LDDT, R180. -/
def Obligations.ReadDelayTimer : Prop :=
  Words 0xF0FF 0xF007 (fun w => .lddt (xOf w)) ∧
  ∀ s x, Next (.lddt x) s fun t => t.getV x = s.dt ∧ SameRegsBut x s t ∧ SameButRegs s t

/-- STDT and STST, R182, R183. -/
def Obligations.SetTimers : Prop :=
  Words 0xF0FF 0xF015 (fun w => .stdt (xOf w)) ∧ Words 0xF0FF 0xF018 (fun w => .stst (xOf w)) ∧
  ∀ s x,
    (Next (.stdt x) s fun t => t.dt = s.getV x ∧ t.st = s.st ∧ SameRegs s t ∧ t.pc = s.pc ∧ t.index = s.index ∧
      SameStack s t ∧ SameMem s t ∧ SameDisplay s t ∧ SameOracles s t ∧ SameOutside s t ∧ ReportsOk s t) ∧
    (Next (.stst x) s fun t => t.st = s.getV x ∧ t.dt = s.dt ∧ SameRegs s t ∧ t.pc = s.pc ∧ t.index = s.index ∧
      SameStack s t ∧ SameMem s t ∧ SameDisplay s t ∧ SameOracles s t ∧ SameOutside s t ∧ ReportsOk s t)

/-- WKEY, R181, R185 (the polling contract is the spec's decision D8, the choice among several keys its D22): with no key
pressed the advance is undone and `WaitKey` is reported with nothing else changed; with a key pressed, some pressed key's
id goes to `V[x]`. -/
def Obligations.WaitKeyPollsTheKeypad : Prop :=
  Words 0xF0FF 0xF00A (fun w => .wkey (xOf w)) ∧
  (∀ s x, s.keys = 0 → Next (.wkey x) s fun t =>
    t.pc = s.pc - 2 ∧ t.result.code = .waitKey ∧ t.firstCondition = s.firstCondition ∧ SameRegs s t ∧
    t.index = s.index ∧ SameStack s t ∧ SameTimers s t ∧ SameMem s t ∧ SameDisplay s t ∧ SameOracles s t ∧
    SameOutside s t) ∧
  ∀ s x, s.keys ≠ 0 → Next (.wkey x) s fun t =>
    (∃ k : KeyId, s.keys.getLsbD k.toNat = true ∧ (t.getV x).toNat = k.toNat) ∧ SameRegsBut x s t ∧ t.pc = s.pc ∧
    t.index = s.index ∧ SameStack s t ∧ SameTimers s t ∧ SameMem s t ∧ SameDisplay s t ∧ t.rand = s.rand ∧
    (t.keyDraws = s.keyDraws ∨ t.keyDraws = s.keyDraws.next) ∧ SameOutside s t ∧ ReportsOk s t

/-- The Keypad may report any of the pressed keys: for each of them some choice of the Keypad makes WKEY report it
(R185: "a draw among the keys that are down", decision D22; assumption 4). -/
def Obligations.EveryPressedKeyCanBeReported : Prop :=
  ∀ (s : State) (x : RegIx) (k : KeyId), s.keys.getLsbD k.toNat = true →
    ∃ c : Nat, Next (.wkey x) { s with keyDraws := ⟨[c], s.keyDraws.taken⟩ } fun t => t.getV x = k.setWidth 8

/-- What the outside does between two steps, but for reset (ResetSetsCoreOnly): the timer tick, 60_exceptions.md R215, each
timer on its own, and zero stays zero (decision D12, assumption 16); the timer port's two writes, 10_state.md R42, R216;
new key states, 45_timer_key.md R186. Each changes nothing else. That these are events of a schedule is the model's choice
(assumption 7). -/
def Obligations.TickCountsDownToZero : Prop :=
  (∀ s : State, ∃ d t : Byte, d.toNat = s.dt.toNat - 1 ∧ t.toNat = s.st.toNat - 1 ∧
    s.deliver .tick = { s with dt := d, st := t }) ∧
  (∀ (s : State) (b : Byte), s.deliver (.setDelayTimer b) = { s with dt := b }) ∧
  (∀ (s : State) (b : Byte), s.deliver (.setSoundTimer b) = { s with st := b }) ∧
  ∀ (s : State) (k : BitVec 16), s.deliver (.setKeys k) = { s with keys := k }

/-- R217 (derived there): a timer at `v` is 0 after exactly `v` ticks, not before, and stays 0. Stopping at
zero is the spec's decision D12 (assumption 16). -/
def Obligations.TimerReachesZeroAfterItsValue : Prop :=
  ∀ (s : State) (k : Nat),
    (((List.replicate k DriverEvent.tick).foldl State.deliver s).dt = 0 ↔ s.dt.toNat ≤ k) ∧
    (((List.replicate k DriverEvent.tick).foldl State.deliver s).st = 0 ↔ s.st.toNat ≤ k)

/-! ### Reset, Memory, fetch and the step -/

/-- Reset, 10_state.md R44, R45, as an event between two steps: CORE's registers at their values, the collaborators and
the rest untouched; and the model's reset state has those values. The value of `I` is the spec's decision D11 (assumption
6), reset at any time its D1 (assumption 21). -/
def Obligations.ResetSetsCoreOnly : Prop :=
  (∀ s : State,
    SameMem s (s.deliver .reset) ∧ SameDisplay s (s.deliver .reset) ∧ SameOracles s (s.deliver .reset) ∧
    SameOutside s (s.deliver .reset) ∧ (s.deliver .reset).result = s.result ∧
    (s.deliver .reset).firstCondition = s.firstCondition) ∧
  ∀ s : State, ∀ t ∈ [s.deliver .reset, State.reset],
    (∀ r, t.getV r = 0) ∧ (∀ (j : Nat) (h : j < 16), t.stack[j] = 0) ∧ t.sp = 0 ∧ t.pc = 0x200 ∧ t.dt = 0 ∧ t.st = 0 ∧
    t.index = 0

/-- R64: a write makes its cell hold the byte and changes no other cell, for every cell and every byte. -/
def Obligations.MemoryWriteChangesOneCell : Prop :=
  ∀ (m : Memory) (a b : Addr) (v : Byte), (m.write a v).read a = v ∧ (b ≠ a → (m.write a v).read b = m.read b)

/-- R66: the byte at the lower address is the high byte of the word fetched. -/
def Obligations.FetchIsBigEndian : Prop :=
  ∀ s : State, s.canFetch = true →
    s.fetchWord.toNat =
      (s.memRead (BitVec.ofNat 12 s.pc.toNat)).toNat * 256 + (s.memRead (BitVec.ofNat 12 (s.pc.toNat + 1))).toNat

/-- R24: the three phases of a step. Whenever the word at `pc` decodes to an instruction, the step is that instruction's
`exec` at the state whose `pc` is 2 further and whose record names the step; what the outside does between two steps
comes first (00_scope.md R13). The record's layout and the numbers of its codes (R37, 60_exceptions.md R200) are the spec's
decision D14, the refused fetch its D5; the schedule is the model's (assumption 7). -/
def Obligations.StepIsFetchAdvanceExecute : Prop :=
  (∀ s : State, step s = coreStep s.betweenSteps) ∧
  (∀ (s : State) (i : Instr), s.pc.toNat ≤ 0xFFE → decode s.fetchWord = some i →
    coreStep s = exec i { s with pc := s.pc + 2, result := ⟨.ok, s.pc, s.fetchWord⟩ }) ∧
  (∀ s : State, s.pc.toNat > 0xFFE → ∃ t, coreStep s = .next t ∧ t.result.code = .memoryAddressOutOfRange .fetch) ∧
  (∀ (s : State) (es : List DriverEvent) (rest : List (List DriverEvent)),
    (s.schedule = [] → s.betweenSteps = s) ∧
    (s.schedule = es :: rest → s.betweenSteps = es.foldl State.deliver { s with schedule := rest })) ∧
  StepCode.ok.number = 0 ∧ StepCode.waitKey.number = 1 ∧ StepCode.unknownInstruction.number = 2 ∧
  StepCode.stackOverflow.number = 3 ∧ StepCode.stackUnderflow.number = 4 ∧
  (∀ k, (StepCode.memoryAddressOutOfRange k).number = 5) ∧
  (StepCode.memoryAddressOutOfRange .fetch).kindBit = 0 ∧ (StepCode.memoryAddressOutOfRange .data).kindBit = 1

/-- A word put where the next step fetches is the one it runs, from every state (`withFetchWord` is the model's: assumption
8). -/
def Obligations.WithFetchWordRunsTheWord : Prop :=
  ∀ (s : State) (w : Word) (i : Instr), decode w = some i →
    ∃ u : State, u.pc.toNat ≤ 0xFFE ∧ u.fetchWord = w ∧
      step (s.withFetchWord 16 w.toNat) = exec i { u with pc := u.pc + 2, result := ⟨.ok, u.pc, w⟩ } ∧
      (s.schedule = [] → s.canFetch = true → u.pc = s.pc ∧ SameRegs s u ∧ u.index = s.index ∧ SameStack s u ∧
        SameTimers s u ∧ SameDisplay s u ∧ SameOracles s u ∧ SameOutside s u ∧ u.result = s.result ∧
        u.firstCondition = s.firstCondition ∧
        ∀ a : Addr, a.toNat ≠ s.pc.toNat → a.toNat ≠ s.pc.toNat + 1 → u.memRead a = s.memRead a)

/-- A fetch past 0xFFE, 60_exceptions.md R203, R208 (decision D5): nothing changes, the record says so with word 0x0000,
and the next step reports the same again. -/
def Obligations.RefusedFetchChangesNothing : Prop :=
  ∀ s : State, s.pc.toNat > 0xFFE →
    ∃ t, coreStep s = .next t ∧ SameRegs s t ∧ t.pc = s.pc ∧ t.index = s.index ∧ SameStack s t ∧ SameTimers s t ∧
      SameMem s t ∧ SameDisplay s t ∧ SameOracles s t ∧ t.keys = s.keys ∧
      t.result = ⟨.memoryAddressOutOfRange .fetch, s.pc, 0⟩ ∧
      t.firstCondition = some (s.firstCondition.getD t.result) ∧ coreStep t = .next t

/-- An unrecognised word, 60_exceptions.md R205 (decision D2): `pc` advances by 2, nothing else changes, and the record
holds the word and its address. -/
def Obligations.UnrecognisedWordIsReportedNoOp : Prop :=
  ∀ s : State, s.pc.toNat ≤ 0xFFE → decode s.fetchWord = none →
    ∃ t, coreStep s = .next t ∧ t.pc = s.pc + 2 ∧ SameRegs s t ∧ t.index = s.index ∧ SameStack s t ∧ SameTimers s t ∧
      SameMem s t ∧ SameDisplay s t ∧ SameOracles s t ∧ t.keys = s.keys ∧
      t.result = ⟨.unknownInstruction, s.pc, s.fetchWord⟩ ∧ t.firstCondition = some (s.firstCondition.getD t.result)

/-- A step always returns (10_state.md R36): from every state, and with none of the model's stops.
That a condition or a wait is a next state rests on the spec's decisions D2, D4, D5, D6 and D8 (assumptions 12 and 14). -/
def Obligations.StepAlwaysReturns : Prop := ∀ s : State, ∃ t, step s = .next t

/-! ### Rules of the whole machine -/

/-- The invariant: every step keeps Memory in its canonical form, `pc` at most 0x10FE and every stack slot at most 0x1000
(10_state.md R28, R34). The bounds rest on the spec's decisions D5 and D15 (assumptions 12 and 18). -/
def Obligations.StepKeepsInv : Prop := ∀ s t : State, s.Inv → step s = .next t → t.Inv

/-- The reset state meets the invariant. -/
def Obligations.ResetMeetsInv : Prop := State.reset.Inv

/-- A step that ends in a condition has had no effect of its own: an execute phase that reports a
condition leaves the state it started from but for the report (60_exceptions.md R201, R204, decision D4), and each
condition comes only from the instructions R200 names for it (the ranges are the spec's decision D6; assumption 12). -/
def Obligations.ConditionsArePreciseAndCaused : Prop :=
  ∀ (i : Instr) (s t : State), exec i s = .next t → t.result.code.isCondition = true →
    OnlyReports t.result.code s t ∧
    ((t.result.code = .stackOverflow ∧ (∃ nnn, i = .call nnn) ∧ s.sp.val = 16) ∨
     (t.result.code = .stackUnderflow ∧ i = .ret ∧ s.sp.val = 0) ∨
     (t.result.code = .memoryAddressOutOfRange .data ∧
       ((∃ x, (i = .bcd x ∧ s.index.toNat + 3 > 0x1000) ∨
         ((i = .stm x ∨ i = .ldm x) ∧ s.index.toNat + x.toNat + 1 > 0x1000)) ∨
        ∃ x y n, i = .drw x y n ∧ s.index.toNat + n.toNat > 0x1000)))

/-- The first condition a run reports is remembered for ever, and a run whose memory of it is empty has reported none
(60_exceptions.md R222; the field is the model's, assumption 1). -/
def Obligations.FirstConditionIsKept : Prop :=
  ∀ s t : State, step s = .next t →
    (∀ r, s.firstCondition = some r → t.firstCondition = some r) ∧
    (s.firstCondition = none →
      t.firstCondition = if t.result.code.isCondition then some t.result else none)

/-- The timers, 10_state.md R32: no instruction changes a timer except STDT (`DT`) and STST (`ST`), and no instruction
reads `ST`: runs that differ only in it go on alike. -/
def Obligations.TimersAreOwnedAndStUnread : Prop :=
  ∀ (i : Instr) (s t : State), exec i s = .next t →
    (t.dt = s.dt ∨ ∃ x, i = .stdt x ∧ t.dt = s.getV x) ∧ (t.st = s.st ∨ ∃ x, i = .stst x ∧ t.st = s.getV x) ∧
    ∀ b : Byte,
      ((∃ x, i = .stst x) → exec i { s with st := b } = .next t) ∧
      ((¬ ∃ x, i = .stst x) → exec i { s with st := b } = .next { t with st := b })

/-- Only LDIX, ADDIX and FONT change `I` (10_state.md R29). -/
def Obligations.IndexChangesOnlyByItsInstructions : Prop :=
  ∀ (i : Instr) (s t : State), exec i s = .next t →
    t.index = s.index ∨ (∃ nnn, i = .ldix nnn) ∨ (∃ x, i = .addix x) ∨ ∃ x, i = .font x

/-- Only CALL writes a stack slot, and only the slot `SP`; only CALL and RET move `SP`, by one (10_state.md R30, R31). That the
slot is `SP` is the spec's decision D13 (assumption 17). -/
def Obligations.StackChangesOnlyByCallAndReturn : Prop :=
  ∀ (i : Instr) (s t : State), exec i s = .next t →
    (∀ (j : Nat) (h : j < 16), t.stack[j] = s.stack[j] ∨ ((∃ nnn, i = .call nnn) ∧ j = s.sp.val ∧ t.stack[j] = s.pc)) ∧
    (t.sp = s.sp ∨ ((∃ nnn, i = .call nnn) ∧ t.sp.val = s.sp.val + 1) ∨ (i = .ret ∧ t.sp.val + 1 = s.sp.val))

/-- Only BCD and STM write Memory, each only the bytes from `I` that it stores (20_memory.md R62). -/
def Obligations.MemoryChangesOnlyByBcdAndStm : Prop :=
  ∀ (i : Instr) (s t : State) (a : Addr), exec i s = .next t → t.memRead a ≠ s.memRead a →
    s.index.toNat ≤ a.toNat ∧
    ((∃ x, i = .bcd x ∧ a.toNat < s.index.toNat + 3) ∨ ∃ x, i = .stm x ∧ a.toNat ≤ s.index.toNat + x.toNat)

/-- Which register an instruction can write, 10_state.md R22: any change of `V[r]` is by an instruction whose field names
`r`, or by a flag, or by a LDM whose range has it. -/
def Obligations.RegisterWritesAreNamed : Prop :=
  ∀ (i : Instr) (s t : State) (r : RegIx), exec i s = .next t → t.getV r ≠ s.getV r →
    (∃ nn, i = .ldi r nn ∨ i = .addi r nn ∨ i = .rnd r nn) ∨
    (∃ y, i = .mov r y ∨ i = .or r y ∨ i = .and r y ∨ i = .xor r y ∨ i = .add r y ∨ i = .sub r y ∨ i = .shr r y ∨
      i = .shl r y) ∨
    (∃ x, i = .suby x r) ∨ i = .lddt r ∨ (i = .wkey r ∧ t.result.code = .ok) ∨ (∃ x, i = .ldm x ∧ r.toNat ≤ x.toNat) ∨
    (r = 0xF ∧ ((∃ x y, i = .add x y ∨ i = .sub x y ∨ i = .shr x y ∨ i = .suby x y ∨ i = .shl x y) ∨
      ∃ x y n, i = .drw x y n))

/-- The collaborators: only CLS and DRW change the framebuffer, only RND draws a random byte, only WKEY asks the Keypad to
choose, and no instruction changes the keys, the parameter or the schedule (44_display.md R173, 42_alu.md R154,
45_timer_key.md R186). -/
def Obligations.CollaboratorsReachedOnlyByTheirInstructions : Prop :=
  ∀ (i : Instr) (s t : State), exec i s = .next t →
    (t.fb = s.fb ∨ i = .cls ∨ ∃ x y n, i = .drw x y n) ∧ (t.rand = s.rand ∨ ∃ x nn, i = .rnd x nn) ∧
    (t.keyDraws = s.keyDraws ∨ ∃ x, i = .wkey x) ∧ t.keys = s.keys ∧ t.fontBase = s.fontBase ∧ t.schedule = s.schedule

/-- How every instruction leaves `pc`, exactly, by the rows of 10_state.md R27 (`PcRow`). The rows of a full or an empty
stack rest on the spec's decision D4 (assumption 12), the key id of SKP and SKNP on D9 (assumption 15), the unreduced sum of
JPV0 on D15 (assumption 18), the wait of WKEY on D8 (assumption 14), the slot RET reads on D13 (assumption 17). -/
def Obligations.PcAfterEachInstruction : Prop :=
  ∀ (i : Instr) (s t : State), exec i s = .next t → PcRow i s t

/-- Self-modifying code, 20_memory.md R67, R77: two bytes stored by STM at the address of the next instruction are the
word the very next fetch sees, `V[0]` as its high byte. -/
def Obligations.StoredBytesAreFetchedNext : Prop :=
  ∀ (s t : State) (x : RegIx), 1 ≤ x.toNat → s.index.toNat + x.toNat + 1 ≤ 0x1000 → s.pc.toNat = s.index.toNat →
    exec (.stm x) s = .next t → t.canFetch = true ∧ t.fetchWord.toNat = (s.getV 0).toNat * 256 + (s.getV 1).toNat

/-- A program that jumps to itself has finished, 40_flow_stack.md R121, 70_reset_and_hazards.md R251: with no event to
come, every step reports `Ok` and changes nothing but the record, so it stays finished. -/
def Obligations.FinishedStaysFinished : Prop :=
  ∀ s : State, s.finished → s.schedule = [] →
    ∃ t, step s = .next t ∧ t.result.code = .ok ∧ t.pc = s.pc ∧ SameRegs s t ∧ t.index = s.index ∧ SameStack s t ∧
      SameTimers s t ∧ t.mem = s.mem ∧ SameDisplay s t ∧ SameOracles s t ∧ t.keys = s.keys ∧
      t.firstCondition = s.firstCondition ∧ t.fontBase = s.fontBase ∧ t.schedule = [] ∧ t.finished

end
end

