-- ==== Sys2Proof/Laws/Decode.lean ====
section
/-! SUPPORT. The laws of the word formats (spec 30_encoding.md R91, R92): the fields of a word built from its parts, what
a row's mask says of a word's fields, and that a word is its two bytes. -/

namespace Sys2Proof

/-! ### A built word as a number -/

theorem toNat_wordXYN (op x y n : Nibble) :
    (wordXYN op x y n).toNat = op.toNat * 4096 + x.toNat * 256 + y.toNat * 16 + n.toNat := by
  simp only [wordXYN, BitVec.toNat_append]
  rw [← Nat.shiftLeft_add_eq_or_of_lt n.isLt, ← Nat.shiftLeft_add_eq_or_of_lt y.isLt,
    ← Nat.shiftLeft_add_eq_or_of_lt x.isLt]
  simp only [Nat.shiftLeft_eq]
  omega

theorem toNat_wordXNN (op x : Nibble) (nn : Byte) :
    (wordXNN op x nn).toNat = op.toNat * 4096 + x.toNat * 256 + nn.toNat := by
  simp only [wordXNN, BitVec.toNat_append]
  rw [← Nat.shiftLeft_add_eq_or_of_lt nn.isLt, ← Nat.shiftLeft_add_eq_or_of_lt x.isLt]
  simp only [Nat.shiftLeft_eq]
  omega

theorem toNat_wordNNN (op : Nibble) (nnn : Addr) : (wordNNN op nnn).toNat = op.toNat * 4096 + nnn.toNat := by
  simp only [wordNNN, BitVec.toNat_append]
  rw [← Nat.shiftLeft_add_eq_or_of_lt nnn.isLt, Nat.shiftLeft_eq]

/-! ### The fields of a word as numbers -/

theorem toNat_fieldOp (w : Word) : (fieldOp w).toNat = w.toNat / 4096 := by
  have := w.isLt
  simp only [fieldOp, BitVec.extractLsb'_toNat, Nat.shiftRight_eq_div_pow]; omega

theorem toNat_fieldX (w : Word) : (fieldX w).toNat = w.toNat / 256 % 16 := by
  simp only [fieldX, BitVec.extractLsb'_toNat, Nat.shiftRight_eq_div_pow]

theorem toNat_fieldY (w : Word) : (fieldY w).toNat = w.toNat / 16 % 16 := by
  simp only [fieldY, BitVec.extractLsb'_toNat, Nat.shiftRight_eq_div_pow]

theorem toNat_fieldN (w : Word) : (fieldN w).toNat = w.toNat % 16 := by
  simp [fieldN, BitVec.extractLsb'_toNat]

theorem toNat_fieldNN (w : Word) : (fieldNN w).toNat = w.toNat % 256 := by
  simp [fieldNN, BitVec.extractLsb'_toNat]

theorem toNat_fieldNNN (w : Word) : (fieldNNN w).toNat = w.toNat % 4096 := by
  simp only [fieldNNN, BitVec.extractLsb'_toNat, Nat.shiftRight_eq_div_pow]; omega

/-! ### The fields of a built word -/

@[simp] theorem fieldOp_wordXYN (op x y n : Nibble) : fieldOp (wordXYN op x y n) = op := by
  apply BitVec.eq_of_toNat_eq
  have := op.isLt; have := x.isLt; have := y.isLt; have := n.isLt
  rw [toNat_fieldOp, toNat_wordXYN]; omega

@[simp] theorem fieldX_wordXYN (op x y n : Nibble) : fieldX (wordXYN op x y n) = x := by
  apply BitVec.eq_of_toNat_eq
  have := op.isLt; have := x.isLt; have := y.isLt; have := n.isLt
  rw [toNat_fieldX, toNat_wordXYN]; omega

@[simp] theorem fieldY_wordXYN (op x y n : Nibble) : fieldY (wordXYN op x y n) = y := by
  apply BitVec.eq_of_toNat_eq
  have := op.isLt; have := x.isLt; have := y.isLt; have := n.isLt
  rw [toNat_fieldY, toNat_wordXYN]; omega

@[simp] theorem fieldN_wordXYN (op x y n : Nibble) : fieldN (wordXYN op x y n) = n := by
  apply BitVec.eq_of_toNat_eq
  have := op.isLt; have := x.isLt; have := y.isLt; have := n.isLt
  rw [toNat_fieldN, toNat_wordXYN]; omega

@[simp] theorem fieldOp_wordXNN (op x : Nibble) (nn : Byte) : fieldOp (wordXNN op x nn) = op := by
  apply BitVec.eq_of_toNat_eq
  have := op.isLt; have := x.isLt; have := nn.isLt
  rw [toNat_fieldOp, toNat_wordXNN]; omega

@[simp] theorem fieldX_wordXNN (op x : Nibble) (nn : Byte) : fieldX (wordXNN op x nn) = x := by
  apply BitVec.eq_of_toNat_eq
  have := op.isLt; have := x.isLt; have := nn.isLt
  rw [toNat_fieldX, toNat_wordXNN]; omega

@[simp] theorem fieldNN_wordXNN (op x : Nibble) (nn : Byte) : fieldNN (wordXNN op x nn) = nn := by
  apply BitVec.eq_of_toNat_eq
  have := op.isLt; have := x.isLt; have := nn.isLt
  rw [toNat_fieldNN, toNat_wordXNN]; omega

@[simp] theorem fieldOp_wordNNN (op : Nibble) (nnn : Addr) : fieldOp (wordNNN op nnn) = op := by
  apply BitVec.eq_of_toNat_eq
  have := op.isLt; have := nnn.isLt
  rw [toNat_fieldOp, toNat_wordNNN]; omega

@[simp] theorem fieldNNN_wordNNN (op : Nibble) (nnn : Addr) : fieldNNN (wordNNN op nnn) = nnn := by
  apply BitVec.eq_of_toNat_eq
  have := op.isLt; have := nnn.isLt
  rw [toNat_fieldNNN, toNat_wordNNN]; omega

/-! ### A word from its fields -/

theorem word_eq_wordXYN (w : Word) : w = wordXYN (fieldOp w) (fieldX w) (fieldY w) (fieldN w) := by
  apply BitVec.eq_of_toNat_eq
  rw [toNat_wordXYN, toNat_fieldOp, toNat_fieldX, toNat_fieldY, toNat_fieldN]; omega

theorem word_eq_wordXNN (w : Word) : w = wordXNN (fieldOp w) (fieldX w) (fieldNN w) := by
  apply BitVec.eq_of_toNat_eq
  rw [toNat_wordXNN, toNat_fieldOp, toNat_fieldX, toNat_fieldNN]; omega

theorem word_eq_wordNNN (w : Word) : w = wordNNN (fieldOp w) (fieldNNN w) := by
  apply BitVec.eq_of_toNat_eq
  rw [toNat_wordNNN, toNat_fieldOp, toNat_fieldNNN]; omega

/-! ### What a mask of the opcode map says (R94) -/

theorem wordXYN_and (a b c d e f g h : Nibble) :
    wordXYN a b c d &&& wordXYN e f g h = wordXYN (a &&& e) (b &&& f) (c &&& g) (d &&& h) :=
  BitVec.and_append.trans (congrArg (· ++ (d &&& h)) (BitVec.and_append.trans (congrArg (· ++ (c &&& g)) BitVec.and_append)))

theorem wordXYN_inj {a b c d e f g h : Nibble} :
    wordXYN a b c d = wordXYN e f g h ↔ a = e ∧ b = f ∧ c = g ∧ d = h := by
  constructor
  · intro q
    exact ⟨by simpa using congrArg fieldOp q, by simpa using congrArg fieldX q, by simpa using congrArg fieldY q,
      by simpa using congrArg fieldN q⟩
  · rintro ⟨rfl, rfl, rfl, rfl⟩; rfl

/-- `(w AND mask) = match`, nibble by nibble. -/
theorem and_mask_iff (w : Word) (ma mb mc md pa pb pc pd : Nibble) :
    w &&& wordXYN ma mb mc md = wordXYN pa pb pc pd ↔
      fieldOp w &&& ma = pa ∧ fieldX w &&& mb = pb ∧ fieldY w &&& mc = pc ∧ fieldN w &&& md = pd := by
  conv_lhs => rw [word_eq_wordXYN w, wordXYN_and]
  exact wordXYN_inj

theorem nibble_and_all (a : Nibble) : a &&& 15#4 = a := BitVec.and_allOnes

/-- The rows whose mask is 0xF000 (R96): only the opcode nibble is fixed. -/
theorem mask_F000 (w : Word) (op : Nibble) : w &&& 0xF000 = wordXYN op 0 0 0 ↔ fieldOp w = op := by
  rw [show (0xF000 : Word) = wordXYN 0xF 0 0 0 from by decide, and_mask_iff]
  simp [nibble_and_all]

/-- The rows whose mask is 0xF00F (R96): the opcode nibble and the low nibble. -/
theorem mask_F00F (w : Word) (op n : Nibble) : w &&& 0xF00F = wordXYN op 0 0 n ↔ fieldOp w = op ∧ fieldN w = n := by
  rw [show (0xF00F : Word) = wordXYN 0xF 0 0 0xF from by decide, and_mask_iff]
  simp [nibble_and_all]

/-- The rows whose mask is 0xF0FF (R96): the opcode nibble and the low byte. -/
theorem mask_F0FF (w : Word) (op y n : Nibble) :
    w &&& 0xF0FF = wordXYN op 0 y n ↔ fieldOp w = op ∧ fieldY w = y ∧ fieldN w = n := by
  rw [show (0xF0FF : Word) = wordXYN 0xF 0 0xF 0xF from by decide, and_mask_iff]
  simp [nibble_and_all]

/-- The low byte as its two nibbles: `nn = y ++ n` (R91). -/
theorem fieldNN_eq_iff (w : Word) (nn : Byte) :
    fieldNN w = nn ↔ fieldY w = nn.extractLsb' 4 4 ∧ fieldN w = nn.extractLsb' 0 4 := by
  simp only [← BitVec.toNat_inj, toNat_fieldNN, toNat_fieldY, toNat_fieldN, BitVec.extractLsb'_toNat,
    Nat.shiftRight_eq_div_pow]
  have := nn.isLt
  omega

/-! ### From a word's fixed nibbles to its instruction, and back -/

/-- A nibble is known by its number. -/
theorem nibble_eq {n : Nibble} {k : Nat} (h : n.toNat = k) : n = BitVec.ofNat 4 k := by subst h; simp

theorem wordNNN_of_fields {w : Word} {op : Nibble} (h : fieldOp w = op) : wordNNN op (fieldNNN w) = w := by
  rw [← h]; exact (word_eq_wordNNN w).symm

theorem wordXNN_of_fields {w : Word} {op : Nibble} {nn : Byte} (h : fieldOp w = op) (hn : fieldNN w = nn) :
    wordXNN op (fieldX w) nn = w := by
  rw [← h, ← hn]; exact (word_eq_wordXNN w).symm

theorem wordXYN_of_fields {w : Word} {op n : Nibble} (h : fieldOp w = op) (hn : fieldN w = n) :
    wordXYN op (fieldX w) (fieldY w) n = w := by
  rw [← h, ← hn]; exact (word_eq_wordXYN w).symm

/-- A row whose mask is 0xF000 decodes as its opcode nibble says. -/
theorem decode_of_F000 (op : Nibble) {pattern : Word} {f : Word → Instr} (hp : pattern = wordXYN op 0 0 0)
    (hf : ∀ w, fieldOp w = op → decode w = some (f w)) (w : Word) (h : w &&& 0xF000 = pattern) :
    decode w = some (f w) :=
  hf w ((mask_F000 w op).1 (h.trans hp))

/-- A row whose mask is 0xF00F decodes as its opcode nibble and its low nibble say. -/
theorem decode_of_F00F (op n : Nibble) {pattern : Word} {f : Word → Instr} (hp : pattern = wordXYN op 0 0 n)
    (hf : ∀ w, fieldOp w = op → fieldN w = n → decode w = some (f w)) (w : Word) (h : w &&& 0xF00F = pattern) :
    decode w = some (f w) :=
  have q := (mask_F00F w op n).1 (h.trans hp)
  hf w q.1 q.2

/-- A row whose mask is 0xF0FF decodes as its opcode nibble and its low byte say. -/
theorem decode_of_F0FF (op : Nibble) (nn : Byte) {pattern : Word} {f : Word → Instr}
    (hp : pattern = wordXYN op 0 (nn.extractLsb' 4 4) (nn.extractLsb' 0 4))
    (hf : ∀ w, fieldOp w = op → fieldNN w = nn → decode w = some (f w)) (w : Word) (h : w &&& 0xF0FF = pattern) :
    decode w = some (f w) :=
  have q := (mask_F0FF w op _ _).1 (h.trans hp)
  hf w q.1 ((fieldNN_eq_iff _ _).2 q.2)

/-- A row whose mask is 0xFFFF is one word. -/
theorem mask_FFFF (w c : Word) : w &&& 0xFFFF = c ↔ w = c := by
  rw [show (0xFFFF : Word) = BitVec.allOnes 16 from by decide, BitVec.and_allOnes]

/-! ### The two bytes of a word -/

theorem toNat_wordOfBytes (hi lo : Byte) : (wordOfBytes hi lo).toNat = hi.toNat * 256 + lo.toNat := by
  simp only [wordOfBytes, BitVec.toNat_append]
  rw [← Nat.shiftLeft_add_eq_or_of_lt lo.isLt, Nat.shiftLeft_eq]

/-- The byte at the lower address of a word built from two bytes (R66). -/
@[simp] theorem highByte_wordOfBytes (hi lo : Byte) : highByte (wordOfBytes hi lo) = hi := by
  apply BitVec.eq_of_toNat_eq
  have := hi.isLt; have := lo.isLt
  simp only [highByte, wordOfBytes, BitVec.extractLsb'_toNat, BitVec.toNat_append, Nat.shiftRight_eq_div_pow]
  rw [← Nat.shiftLeft_add_eq_or_of_lt lo.isLt, Nat.shiftLeft_eq]; omega

/-- The byte at the higher address of a word built from two bytes (R66). -/
@[simp] theorem lowByte_wordOfBytes (hi lo : Byte) : lowByte (wordOfBytes hi lo) = lo := by
  apply BitVec.eq_of_toNat_eq
  have := hi.isLt; have := lo.isLt
  simp only [lowByte, wordOfBytes, BitVec.extractLsb'_toNat, BitVec.toNat_append, Nat.shiftRight_eq_div_pow]
  rw [← Nat.shiftLeft_add_eq_or_of_lt lo.isLt, Nat.shiftLeft_eq]; omega

/-- A word is its two bytes (R66). -/
@[simp] theorem wordOfBytes_bytes (w : Word) : wordOfBytes (highByte w) (lowByte w) = w := by
  apply BitVec.eq_of_toNat_eq
  have := w.isLt
  have hl : (lowByte w).toNat = w.toNat % 256 := by
    simp only [lowByte, BitVec.extractLsb'_toNat, Nat.shiftRight_eq_div_pow]; omega
  have hh : (highByte w).toNat = w.toNat / 256 := by
    simp only [highByte, BitVec.extractLsb'_toNat, Nat.shiftRight_eq_div_pow]; omega
  simp only [wordOfBytes, BitVec.toNat_append]
  rw [← Nat.shiftLeft_add_eq_or_of_lt (lowByte w).isLt, hl, hh, Nat.shiftLeft_eq]; omega

end Sys2Proof
end

