-- ==== Sys2Proof/Laws/State.lean ====
section
/-! SUPPORT. One lemma per field per update of the state, each true by unfolding the update once, so that no later proof
unfolds a record update. -/

namespace Sys2Proof.Machine

/-! ### setV -/

@[simp] theorem State.setV_v (s : State) (x : RegIx) (b : Byte) : (s.setV x b).v = s.v.set x.toNat b x.isLt := rfl
@[simp] theorem State.setV_pc (s : State) (x : RegIx) (b : Byte) : (s.setV x b).pc = s.pc := rfl
@[simp] theorem State.setV_index (s : State) (x : RegIx) (b : Byte) : (s.setV x b).index = s.index := rfl
@[simp] theorem State.setV_sp (s : State) (x : RegIx) (b : Byte) : (s.setV x b).sp = s.sp := rfl
@[simp] theorem State.setV_stack (s : State) (x : RegIx) (b : Byte) : (s.setV x b).stack = s.stack := rfl
@[simp] theorem State.setV_dt (s : State) (x : RegIx) (b : Byte) : (s.setV x b).dt = s.dt := rfl
@[simp] theorem State.setV_st (s : State) (x : RegIx) (b : Byte) : (s.setV x b).st = s.st := rfl
@[simp] theorem State.setV_mem (s : State) (x : RegIx) (b : Byte) : (s.setV x b).mem = s.mem := rfl
@[simp] theorem State.setV_fb (s : State) (x : RegIx) (b : Byte) : (s.setV x b).fb = s.fb := rfl
@[simp] theorem State.setV_keys (s : State) (x : RegIx) (b : Byte) : (s.setV x b).keys = s.keys := rfl
@[simp] theorem State.setV_rand (s : State) (x : RegIx) (b : Byte) : (s.setV x b).rand = s.rand := rfl
@[simp] theorem State.setV_keyDraws (s : State) (x : RegIx) (b : Byte) : (s.setV x b).keyDraws = s.keyDraws := rfl
@[simp] theorem State.setV_fontBase (s : State) (x : RegIx) (b : Byte) : (s.setV x b).fontBase = s.fontBase := rfl
@[simp] theorem State.setV_schedule (s : State) (x : RegIx) (b : Byte) : (s.setV x b).schedule = s.schedule := rfl
@[simp] theorem State.setV_result (s : State) (x : RegIx) (b : Byte) : (s.setV x b).result = s.result := rfl
@[simp] theorem State.setV_firstCondition (s : State) (x : RegIx) (b : Byte) : (s.setV x b).firstCondition = s.firstCondition := rfl
@[simp] theorem State.setV_memRead (s : State) (x : RegIx) (b : Byte) (a : Addr) : (s.setV x b).memRead a = s.memRead a := rfl

/-! ### setPc -/

@[simp] theorem State.setPc_v (s : State) (t : Word) : (s.setPc t).v = s.v := rfl
@[simp] theorem State.setPc_pc (s : State) (t : Word) : (s.setPc t).pc = t := rfl
@[simp] theorem State.setPc_index (s : State) (t : Word) : (s.setPc t).index = s.index := rfl
@[simp] theorem State.setPc_sp (s : State) (t : Word) : (s.setPc t).sp = s.sp := rfl
@[simp] theorem State.setPc_stack (s : State) (t : Word) : (s.setPc t).stack = s.stack := rfl
@[simp] theorem State.setPc_dt (s : State) (t : Word) : (s.setPc t).dt = s.dt := rfl
@[simp] theorem State.setPc_st (s : State) (t : Word) : (s.setPc t).st = s.st := rfl
@[simp] theorem State.setPc_mem (s : State) (t : Word) : (s.setPc t).mem = s.mem := rfl
@[simp] theorem State.setPc_fb (s : State) (t : Word) : (s.setPc t).fb = s.fb := rfl
@[simp] theorem State.setPc_keys (s : State) (t : Word) : (s.setPc t).keys = s.keys := rfl
@[simp] theorem State.setPc_rand (s : State) (t : Word) : (s.setPc t).rand = s.rand := rfl
@[simp] theorem State.setPc_keyDraws (s : State) (t : Word) : (s.setPc t).keyDraws = s.keyDraws := rfl
@[simp] theorem State.setPc_fontBase (s : State) (t : Word) : (s.setPc t).fontBase = s.fontBase := rfl
@[simp] theorem State.setPc_schedule (s : State) (t : Word) : (s.setPc t).schedule = s.schedule := rfl
@[simp] theorem State.setPc_result (s : State) (t : Word) : (s.setPc t).result = s.result := rfl
@[simp] theorem State.setPc_firstCondition (s : State) (t : Word) : (s.setPc t).firstCondition = s.firstCondition := rfl
@[simp] theorem State.setPc_getV (s : State) (t : Word) (r : RegIx) : (s.setPc t).getV r = s.getV r := rfl
@[simp] theorem State.setPc_memRead (s : State) (t : Word) (a : Addr) : (s.setPc t).memRead a = s.memRead a := rfl

/-! ### setIndex -/

@[simp] theorem State.setIndex_v (s : State) (a : Addr) : (s.setIndex a).v = s.v := rfl
@[simp] theorem State.setIndex_pc (s : State) (a : Addr) : (s.setIndex a).pc = s.pc := rfl
@[simp] theorem State.setIndex_index (s : State) (a : Addr) : (s.setIndex a).index = a := rfl
@[simp] theorem State.setIndex_sp (s : State) (a : Addr) : (s.setIndex a).sp = s.sp := rfl
@[simp] theorem State.setIndex_stack (s : State) (a : Addr) : (s.setIndex a).stack = s.stack := rfl
@[simp] theorem State.setIndex_dt (s : State) (a : Addr) : (s.setIndex a).dt = s.dt := rfl
@[simp] theorem State.setIndex_st (s : State) (a : Addr) : (s.setIndex a).st = s.st := rfl
@[simp] theorem State.setIndex_mem (s : State) (a : Addr) : (s.setIndex a).mem = s.mem := rfl
@[simp] theorem State.setIndex_fb (s : State) (a : Addr) : (s.setIndex a).fb = s.fb := rfl
@[simp] theorem State.setIndex_keys (s : State) (a : Addr) : (s.setIndex a).keys = s.keys := rfl
@[simp] theorem State.setIndex_rand (s : State) (a : Addr) : (s.setIndex a).rand = s.rand := rfl
@[simp] theorem State.setIndex_keyDraws (s : State) (a : Addr) : (s.setIndex a).keyDraws = s.keyDraws := rfl
@[simp] theorem State.setIndex_fontBase (s : State) (a : Addr) : (s.setIndex a).fontBase = s.fontBase := rfl
@[simp] theorem State.setIndex_schedule (s : State) (a : Addr) : (s.setIndex a).schedule = s.schedule := rfl
@[simp] theorem State.setIndex_result (s : State) (a : Addr) : (s.setIndex a).result = s.result := rfl
@[simp] theorem State.setIndex_firstCondition (s : State) (a : Addr) : (s.setIndex a).firstCondition = s.firstCondition := rfl
@[simp] theorem State.setIndex_getV (s : State) (a : Addr) (r : RegIx) : (s.setIndex a).getV r = s.getV r := rfl
@[simp] theorem State.setIndex_memRead (s : State) (b a : Addr) : (s.setIndex b).memRead a = s.memRead a := rfl

/-! ### setDT -/

@[simp] theorem State.setDT_v (s : State) (b : Byte) : (s.setDT b).v = s.v := rfl
@[simp] theorem State.setDT_pc (s : State) (b : Byte) : (s.setDT b).pc = s.pc := rfl
@[simp] theorem State.setDT_index (s : State) (b : Byte) : (s.setDT b).index = s.index := rfl
@[simp] theorem State.setDT_sp (s : State) (b : Byte) : (s.setDT b).sp = s.sp := rfl
@[simp] theorem State.setDT_stack (s : State) (b : Byte) : (s.setDT b).stack = s.stack := rfl
@[simp] theorem State.setDT_dt (s : State) (b : Byte) : (s.setDT b).dt = b := rfl
@[simp] theorem State.setDT_st (s : State) (b : Byte) : (s.setDT b).st = s.st := rfl
@[simp] theorem State.setDT_mem (s : State) (b : Byte) : (s.setDT b).mem = s.mem := rfl
@[simp] theorem State.setDT_fb (s : State) (b : Byte) : (s.setDT b).fb = s.fb := rfl
@[simp] theorem State.setDT_keys (s : State) (b : Byte) : (s.setDT b).keys = s.keys := rfl
@[simp] theorem State.setDT_rand (s : State) (b : Byte) : (s.setDT b).rand = s.rand := rfl
@[simp] theorem State.setDT_keyDraws (s : State) (b : Byte) : (s.setDT b).keyDraws = s.keyDraws := rfl
@[simp] theorem State.setDT_fontBase (s : State) (b : Byte) : (s.setDT b).fontBase = s.fontBase := rfl
@[simp] theorem State.setDT_schedule (s : State) (b : Byte) : (s.setDT b).schedule = s.schedule := rfl
@[simp] theorem State.setDT_result (s : State) (b : Byte) : (s.setDT b).result = s.result := rfl
@[simp] theorem State.setDT_firstCondition (s : State) (b : Byte) : (s.setDT b).firstCondition = s.firstCondition := rfl
@[simp] theorem State.setDT_getV (s : State) (b : Byte) (r : RegIx) : (s.setDT b).getV r = s.getV r := rfl
@[simp] theorem State.setDT_memRead (s : State) (b : Byte) (a : Addr) : (s.setDT b).memRead a = s.memRead a := rfl

/-! ### setST -/

@[simp] theorem State.setST_v (s : State) (b : Byte) : (s.setST b).v = s.v := rfl
@[simp] theorem State.setST_pc (s : State) (b : Byte) : (s.setST b).pc = s.pc := rfl
@[simp] theorem State.setST_index (s : State) (b : Byte) : (s.setST b).index = s.index := rfl
@[simp] theorem State.setST_sp (s : State) (b : Byte) : (s.setST b).sp = s.sp := rfl
@[simp] theorem State.setST_stack (s : State) (b : Byte) : (s.setST b).stack = s.stack := rfl
@[simp] theorem State.setST_dt (s : State) (b : Byte) : (s.setST b).dt = s.dt := rfl
@[simp] theorem State.setST_st (s : State) (b : Byte) : (s.setST b).st = b := rfl
@[simp] theorem State.setST_mem (s : State) (b : Byte) : (s.setST b).mem = s.mem := rfl
@[simp] theorem State.setST_fb (s : State) (b : Byte) : (s.setST b).fb = s.fb := rfl
@[simp] theorem State.setST_keys (s : State) (b : Byte) : (s.setST b).keys = s.keys := rfl
@[simp] theorem State.setST_rand (s : State) (b : Byte) : (s.setST b).rand = s.rand := rfl
@[simp] theorem State.setST_keyDraws (s : State) (b : Byte) : (s.setST b).keyDraws = s.keyDraws := rfl
@[simp] theorem State.setST_fontBase (s : State) (b : Byte) : (s.setST b).fontBase = s.fontBase := rfl
@[simp] theorem State.setST_schedule (s : State) (b : Byte) : (s.setST b).schedule = s.schedule := rfl
@[simp] theorem State.setST_result (s : State) (b : Byte) : (s.setST b).result = s.result := rfl
@[simp] theorem State.setST_firstCondition (s : State) (b : Byte) : (s.setST b).firstCondition = s.firstCondition := rfl
@[simp] theorem State.setST_getV (s : State) (b : Byte) (r : RegIx) : (s.setST b).getV r = s.getV r := rfl
@[simp] theorem State.setST_memRead (s : State) (b : Byte) (a : Addr) : (s.setST b).memRead a = s.memRead a := rfl

/-! ### setMem -/

@[simp] theorem State.setMem_v (s : State) (m : Memory) : (s.setMem m).v = s.v := rfl
@[simp] theorem State.setMem_pc (s : State) (m : Memory) : (s.setMem m).pc = s.pc := rfl
@[simp] theorem State.setMem_index (s : State) (m : Memory) : (s.setMem m).index = s.index := rfl
@[simp] theorem State.setMem_sp (s : State) (m : Memory) : (s.setMem m).sp = s.sp := rfl
@[simp] theorem State.setMem_stack (s : State) (m : Memory) : (s.setMem m).stack = s.stack := rfl
@[simp] theorem State.setMem_dt (s : State) (m : Memory) : (s.setMem m).dt = s.dt := rfl
@[simp] theorem State.setMem_st (s : State) (m : Memory) : (s.setMem m).st = s.st := rfl
@[simp] theorem State.setMem_mem (s : State) (m : Memory) : (s.setMem m).mem = m := rfl
@[simp] theorem State.setMem_fb (s : State) (m : Memory) : (s.setMem m).fb = s.fb := rfl
@[simp] theorem State.setMem_keys (s : State) (m : Memory) : (s.setMem m).keys = s.keys := rfl
@[simp] theorem State.setMem_rand (s : State) (m : Memory) : (s.setMem m).rand = s.rand := rfl
@[simp] theorem State.setMem_keyDraws (s : State) (m : Memory) : (s.setMem m).keyDraws = s.keyDraws := rfl
@[simp] theorem State.setMem_fontBase (s : State) (m : Memory) : (s.setMem m).fontBase = s.fontBase := rfl
@[simp] theorem State.setMem_schedule (s : State) (m : Memory) : (s.setMem m).schedule = s.schedule := rfl
@[simp] theorem State.setMem_result (s : State) (m : Memory) : (s.setMem m).result = s.result := rfl
@[simp] theorem State.setMem_firstCondition (s : State) (m : Memory) : (s.setMem m).firstCondition = s.firstCondition := rfl
@[simp] theorem State.setMem_getV (s : State) (m : Memory) (r : RegIx) : (s.setMem m).getV r = s.getV r := rfl

/-! ### setFb -/

@[simp] theorem State.setFb_v (s : State) (fb : Framebuffer) : (s.setFb fb).v = s.v := rfl
@[simp] theorem State.setFb_pc (s : State) (fb : Framebuffer) : (s.setFb fb).pc = s.pc := rfl
@[simp] theorem State.setFb_index (s : State) (fb : Framebuffer) : (s.setFb fb).index = s.index := rfl
@[simp] theorem State.setFb_sp (s : State) (fb : Framebuffer) : (s.setFb fb).sp = s.sp := rfl
@[simp] theorem State.setFb_stack (s : State) (fb : Framebuffer) : (s.setFb fb).stack = s.stack := rfl
@[simp] theorem State.setFb_dt (s : State) (fb : Framebuffer) : (s.setFb fb).dt = s.dt := rfl
@[simp] theorem State.setFb_st (s : State) (fb : Framebuffer) : (s.setFb fb).st = s.st := rfl
@[simp] theorem State.setFb_mem (s : State) (fb : Framebuffer) : (s.setFb fb).mem = s.mem := rfl
@[simp] theorem State.setFb_fb (s : State) (fb : Framebuffer) : (s.setFb fb).fb = fb := rfl
@[simp] theorem State.setFb_keys (s : State) (fb : Framebuffer) : (s.setFb fb).keys = s.keys := rfl
@[simp] theorem State.setFb_rand (s : State) (fb : Framebuffer) : (s.setFb fb).rand = s.rand := rfl
@[simp] theorem State.setFb_keyDraws (s : State) (fb : Framebuffer) : (s.setFb fb).keyDraws = s.keyDraws := rfl
@[simp] theorem State.setFb_fontBase (s : State) (fb : Framebuffer) : (s.setFb fb).fontBase = s.fontBase := rfl
@[simp] theorem State.setFb_schedule (s : State) (fb : Framebuffer) : (s.setFb fb).schedule = s.schedule := rfl
@[simp] theorem State.setFb_result (s : State) (fb : Framebuffer) : (s.setFb fb).result = s.result := rfl
@[simp] theorem State.setFb_firstCondition (s : State) (fb : Framebuffer) : (s.setFb fb).firstCondition = s.firstCondition := rfl
@[simp] theorem State.setFb_getV (s : State) (fb : Framebuffer) (r : RegIx) : (s.setFb fb).getV r = s.getV r := rfl
@[simp] theorem State.setFb_memRead (s : State) (fb : Framebuffer) (a : Addr) : (s.setFb fb).memRead a = s.memRead a := rfl

/-! ### setKeys -/

@[simp] theorem State.setKeys_v (s : State) (k : BitVec 16) : (s.setKeys k).v = s.v := rfl
@[simp] theorem State.setKeys_pc (s : State) (k : BitVec 16) : (s.setKeys k).pc = s.pc := rfl
@[simp] theorem State.setKeys_index (s : State) (k : BitVec 16) : (s.setKeys k).index = s.index := rfl
@[simp] theorem State.setKeys_sp (s : State) (k : BitVec 16) : (s.setKeys k).sp = s.sp := rfl
@[simp] theorem State.setKeys_stack (s : State) (k : BitVec 16) : (s.setKeys k).stack = s.stack := rfl
@[simp] theorem State.setKeys_dt (s : State) (k : BitVec 16) : (s.setKeys k).dt = s.dt := rfl
@[simp] theorem State.setKeys_st (s : State) (k : BitVec 16) : (s.setKeys k).st = s.st := rfl
@[simp] theorem State.setKeys_mem (s : State) (k : BitVec 16) : (s.setKeys k).mem = s.mem := rfl
@[simp] theorem State.setKeys_fb (s : State) (k : BitVec 16) : (s.setKeys k).fb = s.fb := rfl
@[simp] theorem State.setKeys_keys (s : State) (k : BitVec 16) : (s.setKeys k).keys = k := rfl
@[simp] theorem State.setKeys_rand (s : State) (k : BitVec 16) : (s.setKeys k).rand = s.rand := rfl
@[simp] theorem State.setKeys_keyDraws (s : State) (k : BitVec 16) : (s.setKeys k).keyDraws = s.keyDraws := rfl
@[simp] theorem State.setKeys_fontBase (s : State) (k : BitVec 16) : (s.setKeys k).fontBase = s.fontBase := rfl
@[simp] theorem State.setKeys_schedule (s : State) (k : BitVec 16) : (s.setKeys k).schedule = s.schedule := rfl
@[simp] theorem State.setKeys_result (s : State) (k : BitVec 16) : (s.setKeys k).result = s.result := rfl
@[simp] theorem State.setKeys_firstCondition (s : State) (k : BitVec 16) : (s.setKeys k).firstCondition = s.firstCondition := rfl
@[simp] theorem State.setKeys_getV (s : State) (k : BitVec 16) (r : RegIx) : (s.setKeys k).getV r = s.getV r := rfl
@[simp] theorem State.setKeys_memRead (s : State) (k : BitVec 16) (a : Addr) : (s.setKeys k).memRead a = s.memRead a := rfl

/-! ### push -/

@[simp] theorem State.push_v (s : State) (p : Word) (h : s.sp.val < 16) : (s.push p h).v = s.v := rfl
@[simp] theorem State.push_pc (s : State) (p : Word) (h : s.sp.val < 16) : (s.push p h).pc = s.pc := rfl
@[simp] theorem State.push_index (s : State) (p : Word) (h : s.sp.val < 16) : (s.push p h).index = s.index := rfl
@[simp] theorem State.push_sp (s : State) (p : Word) (h : s.sp.val < 16) : (s.push p h).sp = ⟨s.sp.val + 1, Nat.succ_lt_succ h⟩ := rfl
@[simp] theorem State.push_stack (s : State) (p : Word) (h : s.sp.val < 16) : (s.push p h).stack = s.stack.set s.sp.val p h := rfl
@[simp] theorem State.push_dt (s : State) (p : Word) (h : s.sp.val < 16) : (s.push p h).dt = s.dt := rfl
@[simp] theorem State.push_st (s : State) (p : Word) (h : s.sp.val < 16) : (s.push p h).st = s.st := rfl
@[simp] theorem State.push_mem (s : State) (p : Word) (h : s.sp.val < 16) : (s.push p h).mem = s.mem := rfl
@[simp] theorem State.push_fb (s : State) (p : Word) (h : s.sp.val < 16) : (s.push p h).fb = s.fb := rfl
@[simp] theorem State.push_keys (s : State) (p : Word) (h : s.sp.val < 16) : (s.push p h).keys = s.keys := rfl
@[simp] theorem State.push_rand (s : State) (p : Word) (h : s.sp.val < 16) : (s.push p h).rand = s.rand := rfl
@[simp] theorem State.push_keyDraws (s : State) (p : Word) (h : s.sp.val < 16) : (s.push p h).keyDraws = s.keyDraws := rfl
@[simp] theorem State.push_fontBase (s : State) (p : Word) (h : s.sp.val < 16) : (s.push p h).fontBase = s.fontBase := rfl
@[simp] theorem State.push_schedule (s : State) (p : Word) (h : s.sp.val < 16) : (s.push p h).schedule = s.schedule := rfl
@[simp] theorem State.push_result (s : State) (p : Word) (h : s.sp.val < 16) : (s.push p h).result = s.result := rfl
@[simp] theorem State.push_firstCondition (s : State) (p : Word) (h : s.sp.val < 16) : (s.push p h).firstCondition = s.firstCondition := rfl
@[simp] theorem State.push_getV (s : State) (p : Word) (h : s.sp.val < 16) (r : RegIx) : (s.push p h).getV r = s.getV r := rfl
@[simp] theorem State.push_memRead (s : State) (p : Word) (h : s.sp.val < 16) (a : Addr) : (s.push p h).memRead a = s.memRead a := rfl

/-! ### drop -/

@[simp] theorem State.drop_v (s : State)  : (s.drop).v = s.v := rfl
@[simp] theorem State.drop_pc (s : State)  : (s.drop).pc = s.pc := rfl
@[simp] theorem State.drop_index (s : State)  : (s.drop).index = s.index := rfl
@[simp] theorem State.drop_stack (s : State)  : (s.drop).stack = s.stack := rfl
@[simp] theorem State.drop_dt (s : State)  : (s.drop).dt = s.dt := rfl
@[simp] theorem State.drop_st (s : State)  : (s.drop).st = s.st := rfl
@[simp] theorem State.drop_mem (s : State)  : (s.drop).mem = s.mem := rfl
@[simp] theorem State.drop_fb (s : State)  : (s.drop).fb = s.fb := rfl
@[simp] theorem State.drop_keys (s : State)  : (s.drop).keys = s.keys := rfl
@[simp] theorem State.drop_rand (s : State)  : (s.drop).rand = s.rand := rfl
@[simp] theorem State.drop_keyDraws (s : State)  : (s.drop).keyDraws = s.keyDraws := rfl
@[simp] theorem State.drop_fontBase (s : State)  : (s.drop).fontBase = s.fontBase := rfl
@[simp] theorem State.drop_schedule (s : State)  : (s.drop).schedule = s.schedule := rfl
@[simp] theorem State.drop_result (s : State)  : (s.drop).result = s.result := rfl
@[simp] theorem State.drop_firstCondition (s : State)  : (s.drop).firstCondition = s.firstCondition := rfl
@[simp] theorem State.drop_getV (s : State)  (r : RegIx) : (s.drop).getV r = s.getV r := rfl
@[simp] theorem State.drop_memRead (s : State)  (a : Addr) : (s.drop).memRead a = s.memRead a := rfl

/-! ### consumeRand -/

@[simp] theorem State.consumeRand_v (s : State)  : (s.consumeRand).v = s.v := rfl
@[simp] theorem State.consumeRand_pc (s : State)  : (s.consumeRand).pc = s.pc := rfl
@[simp] theorem State.consumeRand_index (s : State)  : (s.consumeRand).index = s.index := rfl
@[simp] theorem State.consumeRand_sp (s : State)  : (s.consumeRand).sp = s.sp := rfl
@[simp] theorem State.consumeRand_stack (s : State)  : (s.consumeRand).stack = s.stack := rfl
@[simp] theorem State.consumeRand_dt (s : State)  : (s.consumeRand).dt = s.dt := rfl
@[simp] theorem State.consumeRand_st (s : State)  : (s.consumeRand).st = s.st := rfl
@[simp] theorem State.consumeRand_mem (s : State)  : (s.consumeRand).mem = s.mem := rfl
@[simp] theorem State.consumeRand_fb (s : State)  : (s.consumeRand).fb = s.fb := rfl
@[simp] theorem State.consumeRand_keys (s : State)  : (s.consumeRand).keys = s.keys := rfl
@[simp] theorem State.consumeRand_rand (s : State)  : (s.consumeRand).rand = s.rand.next := rfl
@[simp] theorem State.consumeRand_keyDraws (s : State)  : (s.consumeRand).keyDraws = s.keyDraws := rfl
@[simp] theorem State.consumeRand_fontBase (s : State)  : (s.consumeRand).fontBase = s.fontBase := rfl
@[simp] theorem State.consumeRand_schedule (s : State)  : (s.consumeRand).schedule = s.schedule := rfl
@[simp] theorem State.consumeRand_result (s : State)  : (s.consumeRand).result = s.result := rfl
@[simp] theorem State.consumeRand_firstCondition (s : State)  : (s.consumeRand).firstCondition = s.firstCondition := rfl
@[simp] theorem State.consumeRand_getV (s : State)  (r : RegIx) : (s.consumeRand).getV r = s.getV r := rfl
@[simp] theorem State.consumeRand_memRead (s : State)  (a : Addr) : (s.consumeRand).memRead a = s.memRead a := rfl

/-! ### consumeKeyDraw -/

@[simp] theorem State.consumeKeyDraw_v (s : State)  : (s.consumeKeyDraw).v = s.v := rfl
@[simp] theorem State.consumeKeyDraw_pc (s : State)  : (s.consumeKeyDraw).pc = s.pc := rfl
@[simp] theorem State.consumeKeyDraw_index (s : State)  : (s.consumeKeyDraw).index = s.index := rfl
@[simp] theorem State.consumeKeyDraw_sp (s : State)  : (s.consumeKeyDraw).sp = s.sp := rfl
@[simp] theorem State.consumeKeyDraw_stack (s : State)  : (s.consumeKeyDraw).stack = s.stack := rfl
@[simp] theorem State.consumeKeyDraw_dt (s : State)  : (s.consumeKeyDraw).dt = s.dt := rfl
@[simp] theorem State.consumeKeyDraw_st (s : State)  : (s.consumeKeyDraw).st = s.st := rfl
@[simp] theorem State.consumeKeyDraw_mem (s : State)  : (s.consumeKeyDraw).mem = s.mem := rfl
@[simp] theorem State.consumeKeyDraw_fb (s : State)  : (s.consumeKeyDraw).fb = s.fb := rfl
@[simp] theorem State.consumeKeyDraw_keys (s : State)  : (s.consumeKeyDraw).keys = s.keys := rfl
@[simp] theorem State.consumeKeyDraw_rand (s : State)  : (s.consumeKeyDraw).rand = s.rand := rfl
@[simp] theorem State.consumeKeyDraw_keyDraws (s : State)  : (s.consumeKeyDraw).keyDraws = s.keyDraws.next := rfl
@[simp] theorem State.consumeKeyDraw_fontBase (s : State)  : (s.consumeKeyDraw).fontBase = s.fontBase := rfl
@[simp] theorem State.consumeKeyDraw_schedule (s : State)  : (s.consumeKeyDraw).schedule = s.schedule := rfl
@[simp] theorem State.consumeKeyDraw_result (s : State)  : (s.consumeKeyDraw).result = s.result := rfl
@[simp] theorem State.consumeKeyDraw_firstCondition (s : State)  : (s.consumeKeyDraw).firstCondition = s.firstCondition := rfl
@[simp] theorem State.consumeKeyDraw_getV (s : State)  (r : RegIx) : (s.consumeKeyDraw).getV r = s.getV r := rfl
@[simp] theorem State.consumeKeyDraw_memRead (s : State)  (a : Addr) : (s.consumeKeyDraw).memRead a = s.memRead a := rfl

/-! ### report -/

@[simp] theorem State.report_v (s : State) (c : StepCode) : (s.report c).v = s.v := rfl
@[simp] theorem State.report_pc (s : State) (c : StepCode) : (s.report c).pc = s.pc := rfl
@[simp] theorem State.report_index (s : State) (c : StepCode) : (s.report c).index = s.index := rfl
@[simp] theorem State.report_sp (s : State) (c : StepCode) : (s.report c).sp = s.sp := rfl
@[simp] theorem State.report_stack (s : State) (c : StepCode) : (s.report c).stack = s.stack := rfl
@[simp] theorem State.report_dt (s : State) (c : StepCode) : (s.report c).dt = s.dt := rfl
@[simp] theorem State.report_st (s : State) (c : StepCode) : (s.report c).st = s.st := rfl
@[simp] theorem State.report_mem (s : State) (c : StepCode) : (s.report c).mem = s.mem := rfl
@[simp] theorem State.report_fb (s : State) (c : StepCode) : (s.report c).fb = s.fb := rfl
@[simp] theorem State.report_keys (s : State) (c : StepCode) : (s.report c).keys = s.keys := rfl
@[simp] theorem State.report_rand (s : State) (c : StepCode) : (s.report c).rand = s.rand := rfl
@[simp] theorem State.report_keyDraws (s : State) (c : StepCode) : (s.report c).keyDraws = s.keyDraws := rfl
@[simp] theorem State.report_fontBase (s : State) (c : StepCode) : (s.report c).fontBase = s.fontBase := rfl
@[simp] theorem State.report_schedule (s : State) (c : StepCode) : (s.report c).schedule = s.schedule := rfl
@[simp] theorem State.report_result (s : State) (c : StepCode) : (s.report c).result = { s.result with code := c } := rfl
@[simp] theorem State.report_getV (s : State) (c : StepCode) (r : RegIx) : (s.report c).getV r = s.getV r := rfl
@[simp] theorem State.report_memRead (s : State) (c : StepCode) (a : Addr) : (s.report c).memRead a = s.memRead a := rfl

/-! ### beginExecute -/

@[simp] theorem State.beginExecute_v (s : State) (w : Word) : (s.beginExecute w).v = s.v := rfl
@[simp] theorem State.beginExecute_pc (s : State) (w : Word) : (s.beginExecute w).pc = s.pc + 2 := rfl
@[simp] theorem State.beginExecute_index (s : State) (w : Word) : (s.beginExecute w).index = s.index := rfl
@[simp] theorem State.beginExecute_sp (s : State) (w : Word) : (s.beginExecute w).sp = s.sp := rfl
@[simp] theorem State.beginExecute_stack (s : State) (w : Word) : (s.beginExecute w).stack = s.stack := rfl
@[simp] theorem State.beginExecute_dt (s : State) (w : Word) : (s.beginExecute w).dt = s.dt := rfl
@[simp] theorem State.beginExecute_st (s : State) (w : Word) : (s.beginExecute w).st = s.st := rfl
@[simp] theorem State.beginExecute_mem (s : State) (w : Word) : (s.beginExecute w).mem = s.mem := rfl
@[simp] theorem State.beginExecute_fb (s : State) (w : Word) : (s.beginExecute w).fb = s.fb := rfl
@[simp] theorem State.beginExecute_keys (s : State) (w : Word) : (s.beginExecute w).keys = s.keys := rfl
@[simp] theorem State.beginExecute_rand (s : State) (w : Word) : (s.beginExecute w).rand = s.rand := rfl
@[simp] theorem State.beginExecute_keyDraws (s : State) (w : Word) : (s.beginExecute w).keyDraws = s.keyDraws := rfl
@[simp] theorem State.beginExecute_fontBase (s : State) (w : Word) : (s.beginExecute w).fontBase = s.fontBase := rfl
@[simp] theorem State.beginExecute_schedule (s : State) (w : Word) : (s.beginExecute w).schedule = s.schedule := rfl
@[simp] theorem State.beginExecute_result (s : State) (w : Word) : (s.beginExecute w).result = ⟨.ok, s.pc, w⟩ := rfl
@[simp] theorem State.beginExecute_firstCondition (s : State) (w : Word) : (s.beginExecute w).firstCondition = s.firstCondition := rfl
@[simp] theorem State.beginExecute_getV (s : State) (w : Word) (r : RegIx) : (s.beginExecute w).getV r = s.getV r := rfl
@[simp] theorem State.beginExecute_memRead (s : State) (w : Word) (a : Addr) : (s.beginExecute w).memRead a = s.memRead a := rfl

/-! ### coreReset -/

@[simp] theorem State.coreReset_v (s : State)  : (s.coreReset).v = Vector.replicate 16 0x00 := rfl
@[simp] theorem State.coreReset_pc (s : State)  : (s.coreReset).pc = Config.resetPc := rfl
@[simp] theorem State.coreReset_index (s : State)  : (s.coreReset).index = Config.resetI := rfl
@[simp] theorem State.coreReset_sp (s : State)  : (s.coreReset).sp = 0 := rfl
@[simp] theorem State.coreReset_stack (s : State)  : (s.coreReset).stack = Vector.replicate 16 0x0000 := rfl
@[simp] theorem State.coreReset_dt (s : State)  : (s.coreReset).dt = 0x00 := rfl
@[simp] theorem State.coreReset_st (s : State)  : (s.coreReset).st = 0x00 := rfl
@[simp] theorem State.coreReset_mem (s : State)  : (s.coreReset).mem = s.mem := rfl
@[simp] theorem State.coreReset_fb (s : State)  : (s.coreReset).fb = s.fb := rfl
@[simp] theorem State.coreReset_keys (s : State)  : (s.coreReset).keys = s.keys := rfl
@[simp] theorem State.coreReset_rand (s : State)  : (s.coreReset).rand = s.rand := rfl
@[simp] theorem State.coreReset_keyDraws (s : State)  : (s.coreReset).keyDraws = s.keyDraws := rfl
@[simp] theorem State.coreReset_fontBase (s : State)  : (s.coreReset).fontBase = s.fontBase := rfl
@[simp] theorem State.coreReset_schedule (s : State)  : (s.coreReset).schedule = s.schedule := rfl
@[simp] theorem State.coreReset_result (s : State)  : (s.coreReset).result = s.result := rfl
@[simp] theorem State.coreReset_firstCondition (s : State)  : (s.coreReset).firstCondition = s.firstCondition := rfl
@[simp] theorem State.coreReset_memRead (s : State)  (a : Addr) : (s.coreReset).memRead a = s.memRead a := rfl

/-! ### What the lemmas above leave out -/

/-- Reading a register after writing one (R20). -/
@[simp] theorem State.getV_setV (s : State) (x r : RegIx) (b : Byte) :
    (s.setV x b).getV r = if r = x then b else s.getV r := by
  have hx := x.isLt
  by_cases h : r = x
  · subst h; simp [State.getV, State.setV]
  · have : x.toNat ≠ r.toNat := fun e => h (BitVec.eq_of_toNat_eq e.symm)
    simp [State.getV, State.setV, this, h]

@[simp] theorem State.setVF_eq (s : State) (b : Byte) : s.setVF b = s.setV 0xF b := rfl

@[simp] theorem State.getVF_eq (s : State) : s.getVF = s.getV 0xF := rfl

@[simp] theorem State.drop_sp_val (s : State) : s.drop.sp.val = s.sp.val - 1 := rfl

@[simp] theorem State.setMem_memRead (s : State) (m : Memory) (a : Addr) : (s.setMem m).memRead a = m.read a := rfl

/-- Only a condition can be remembered, and only the first (R222). -/
@[simp] theorem State.report_firstCondition (s : State) (c : StepCode) :
    (s.report c).firstCondition =
      if c.isCondition && s.firstCondition.isNone then some { s.result with code := c } else s.firstCondition := rfl

/-- Two states are the same when every field is. -/
theorem State.ext_fields {s t : State} (hv : s.v = t.v) (hpc : s.pc = t.pc) (hi : s.index = t.index) (hsp : s.sp = t.sp)
    (hk : s.stack = t.stack) (hd : s.dt = t.dt) (hs : s.st = t.st) (hm : s.mem = t.mem) (hf : s.fb = t.fb)
    (hy : s.keys = t.keys) (hr : s.rand = t.rand) (hw : s.keyDraws = t.keyDraws) (hb : s.fontBase = t.fontBase)
    (hc : s.schedule = t.schedule) (he : s.result = t.result) (hq : s.firstCondition = t.firstCondition) : s = t := by
  cases s; cases t; simp_all

/-- The register file is what its sixteen reads say (R20). -/
theorem State.v_ext {s t : State} (h : ∀ r, s.getV r = t.getV r) : s.v = t.v := by
  apply Vector.ext
  intro i hi
  have := h (BitVec.ofNat 4 i)
  simpa [State.getV, Nat.mod_eq_of_lt hi] using this

/-- A skip writes nothing but `pc` (R130). -/
theorem State.skipIf_eq (s : State) (b : Bool) : s.skipIf b = s.setPc (if b then s.pc + 2 else s.pc) := by
  cases b <;> rfl

end Sys2Proof.Machine
end

