-- ==== Sys2Proof/Laws/Memory.lean ====
section
/-! SUPPORT. The laws of Memory: what a read after a write gives (spec 20_memory.md R63, R64), and that every operation
keeps the canonical form. -/

namespace Sys2Proof.Machine

@[simp] theorem Memory.lookup_erase (m : Memory) (a b : Nat) :
    (m.erase a).lookup b = if b = a then Config.blankByte else m.lookup b := by
  induction m with
  | nil => simp [Memory.erase, Memory.lookup]
  | cons c rest ih =>
    obtain ⟨k, w⟩ := c
    by_cases hk : k = a
    · subst hk
      by_cases hb : b = k
      · subst hb; simp [Memory.erase, ih]
      · have : ¬ k = b := fun e => hb e.symm
        simp [Memory.erase, Memory.lookup, ih, hb, this]
    · by_cases hb : k = b
      · subst hb; simp [Memory.erase, Memory.lookup, hk]
      · simp [Memory.erase, Memory.lookup, hk, hb, ih]

@[simp] theorem Memory.lookup_insert (m : Memory) (a b : Nat) (v : Byte) :
    (m.insert a v).lookup b = if b = a then v else m.lookup b := by
  induction m with
  | nil => simp [Memory.insert, Memory.lookup, eq_comm]
  | cons c rest ih =>
    obtain ⟨k, w⟩ := c
    unfold Memory.insert
    split
    · simp [Memory.lookup, eq_comm]
    · split
      · rename_i h; subst h
        by_cases hb : b = a
        · simp [Memory.lookup, hb]
        · have : ¬ a = b := fun e => hb e.symm
          simp [Memory.lookup, hb, this]
      · rename_i h1 h2
        by_cases hb : k = b
        · subst hb
          have : ¬ k = a := fun e => h2 e.symm
          simp [Memory.lookup, this]
        · simp [Memory.lookup, hb, ih]

/-- `MemWrite` makes the cell at `a` hold `v` and changes no other cell (R64). -/
@[simp] theorem Memory.read_write (m : Memory) (a b : Addr) (v : Byte) :
    (m.write a v).read b = if b = a then v else m.read b := by
  have h : (b.toNat = a.toNat) ↔ b = a := ⟨BitVec.eq_of_toNat_eq, fun e => e ▸ rfl⟩
  unfold Memory.write Memory.read
  split
  · rename_i hv; simp [h, hv]
  · simp [h]

theorem Memory.mem_erase {m : Memory} {a : Nat} {c : Host.Cell} (h : c ∈ m.erase a) : c ∈ m := by
  induction m with
  | nil => exact h
  | cons d rest ih =>
    obtain ⟨k, w⟩ := d
    by_cases hk : k = a
    · exact List.mem_cons_of_mem _ (ih (by simpa [Memory.erase, hk] using h))
    · rcases (by simpa [Memory.erase, hk] using h : c = (k, w) ∨ c ∈ Memory.erase rest a) with rfl | h'
      · simp
      · exact List.mem_cons_of_mem _ (ih h')

theorem Memory.mem_insert {m : Memory} {a : Nat} {v : Byte} {c : Host.Cell} (h : c ∈ m.insert a v) :
    c = (a, v) ∨ c ∈ m := by
  induction m with
  | nil => simpa [Memory.insert] using h
  | cons d rest ih =>
    obtain ⟨k, w⟩ := d
    unfold Memory.insert at h
    split at h
    · simpa using h
    · split at h
      · rcases List.mem_cons.1 h with h' | h'
        · exact .inl h'
        · exact .inr (List.mem_cons_of_mem _ h')
      · rcases List.mem_cons.1 h with h' | h'
        · exact .inr (h' ▸ List.mem_cons_self)
        · exact (ih h').imp_right (List.mem_cons_of_mem _)

theorem Memory.erase_rising {m : Memory} (a : Nat) (h : m.Pairwise (fun c d => c.1 < d.1)) :
    (m.erase a).Pairwise (fun c d => c.1 < d.1) := by
  induction m with
  | nil => exact h
  | cons d rest ih =>
    obtain ⟨k, w⟩ := d
    rw [List.pairwise_cons] at h
    by_cases hk : k = a
    · simpa [Memory.erase, hk] using ih h.2
    · simp only [Memory.erase, hk, if_false, List.pairwise_cons]
      exact ⟨fun c hc => h.1 c (Memory.mem_erase hc), ih h.2⟩

theorem Memory.insert_rising {m : Memory} (a : Nat) (v : Byte) (h : m.Pairwise (fun c d => c.1 < d.1)) :
    (m.insert a v).Pairwise (fun c d => c.1 < d.1) := by
  induction m with
  | nil => simp [Memory.insert]
  | cons d rest ih =>
    obtain ⟨k, w⟩ := d
    have hc := List.pairwise_cons.1 h
    unfold Memory.insert
    split
    · rename_i hlt
      refine List.pairwise_cons.2 ⟨fun c hcm => ?_, h⟩
      rcases List.mem_cons.1 hcm with rfl | h'
      · exact hlt
      · exact Nat.lt_trans hlt (hc.1 c h')
    · split
      · rename_i heq; subst heq
        exact List.pairwise_cons.2 ⟨hc.1, hc.2⟩
      · refine List.pairwise_cons.2 ⟨fun c hcm => ?_, ih hc.2⟩
        rcases Memory.mem_insert hcm with rfl | h'
        · show k < a; omega
        · exact hc.1 c h'

/-- A write keeps the canonical form. -/
theorem Memory.wf_write {m : Memory} (a : Addr) (v : Byte) (h : m.wf) : (m.write a v).wf := by
  unfold Memory.write
  split
  · exact ⟨Memory.erase_rising _ h.1, fun c hc => h.2 c (Memory.mem_erase hc)⟩
  · rename_i hv
    refine ⟨Memory.insert_rising _ _ h.1, fun c hc => ?_⟩
    rcases Memory.mem_insert hc with rfl | h'
    · exact ⟨a.isLt, hv⟩
    · exact h.2 c h'

/-- Writing bytes at ascending addresses keeps the canonical form. -/
theorem Memory.wf_writeBytes {m : Memory} (a : Addr) (bs : List Byte) (h : m.wf) : (m.writeBytes a bs).wf := by
  induction bs generalizing m a with
  | nil => exact h
  | cons b bs ih => exact ih _ (Memory.wf_write a b h)

/-- The bytes a range write leaves: byte `k` at `a + k`, and every other cell as before, when the range lies in Memory
(R71). -/
theorem Memory.read_writeBytes (m : Memory) (a : Addr) (bs : List Byte) (b : Addr)
    (h : a.toNat + bs.length ≤ Config.memSize) :
    (m.writeBytes a bs).read b =
      if a.toNat ≤ b.toNat ∧ b.toNat < a.toNat + bs.length then bs.getD (b.toNat - a.toNat) 0 else m.read b := by
  induction bs generalizing m a with
  | nil =>
    simp [Memory.writeBytes]
  | cons c cs ih =>
    simp only [List.length_cons, Config.memSize] at h
    have hb := b.isLt
    simp only [Memory.writeBytes]
    by_cases hz : cs = []
    · subst hz
      by_cases hba : b = a
      · subst hba; simp [Memory.writeBytes]
      · have : ¬ b.toNat = a.toNat := fun e => hba (BitVec.eq_of_toNat_eq e)
        simp [Memory.writeBytes, hba]; omega
    · have hpos : 0 < cs.length := List.length_pos_iff.2 hz
      have ha1 : (a + 1).toNat = a.toNat + 1 := by simp [BitVec.toNat_add]; omega
      rw [ih (m.write a c) (a + 1) (by rw [ha1]; simp only [Config.memSize]; omega), ha1, Memory.read_write]
      simp only [List.length_cons]
      by_cases hba : b = a
      · subst hba
        simp
      · have hne : ¬ b.toNat = a.toNat := fun e => hba (BitVec.eq_of_toNat_eq e)
        by_cases hr : a.toNat + 1 ≤ b.toNat ∧ b.toNat < a.toNat + 1 + cs.length
        · have hr' : a.toNat ≤ b.toNat ∧ b.toNat < a.toNat + (cs.length + 1) := by omega
          have e : b.toNat - a.toNat = (b.toNat - (a.toNat + 1)) + 1 := by omega
          rw [if_pos hr, if_pos hr', e, List.getD_cons_succ]
        · have hr' : ¬ (a.toNat ≤ b.toNat ∧ b.toNat < a.toNat + (cs.length + 1)) := by omega
          rw [if_neg hr, if_neg hr', if_neg hba]

end Sys2Proof.Machine
end

