-- ==== Sys2Proof/Laws/Exec.lean ====
section
/-! SUPPORT. The laws of the operations the meanings share: the range check, addresses in a checked range, the bytes STM
and BCD store, the registers LDM loads, the flags, and the two ends of a step. -/

namespace Sys2Proof.Machine

/-! ### The two ends (R200) -/

theorem complete_eq (s : State) : complete s = .next (s.report .ok) := rfl

theorem raise_eq (c : StepCode) (s : State) : raise c s = .next (s.report c) := rfl

/-- What a condition leaves: the state but for the record, which is remembered if it is the first (R204, R222). -/
theorem State.report_condition_firstCondition (s : State) {c : StepCode} (h : c.isCondition = true) :
    (s.report c).firstCondition = some (s.firstCondition.getD (s.report c).result) := by
  cases hf : s.firstCondition <;> simp [h, hf]

/-! ### The range check (R69) -/

theorem State.dataInRange_iff (s : State) (len : Nat) : s.dataInRange len = true ↔ s.index.toNat + len ≤ 4096 :=
  decide_eq_true_iff

theorem State.dataInRange_false_iff (s : State) (len : Nat) :
    s.dataInRange len = false ↔ 4096 < s.index.toNat + len := by
  rw [← Bool.not_eq_true, dataInRange_iff]; omega

theorem execBcd_inRange {s : State} (x : RegIx) (h : s.index.toNat + 3 ≤ 4096) :
    execBcd x s = complete (s.setMem (s.mem.writeBytes s.index (bcdDigits (s.getV x)))) :=
  if_pos ((s.dataInRange_iff _).2 h)

theorem execBcd_outOfRange {s : State} (x : RegIx) (h : 4096 < s.index.toNat + 3) :
    execBcd x s = raise (.memoryAddressOutOfRange .data) s :=
  if_neg (by rw [State.dataInRange_iff]; omega)

theorem execStm_inRange {s : State} (x : RegIx) (h : s.index.toNat + x.toNat + 1 ≤ 4096) :
    execStm x s = complete (s.setMem (s.mem.writeBytes s.index (s.firstRegs (x.toNat + 1)))) :=
  if_pos ((s.dataInRange_iff _).2 h)

theorem execStm_outOfRange {s : State} (x : RegIx) (h : 4096 < s.index.toNat + x.toNat + 1) :
    execStm x s = raise (.memoryAddressOutOfRange .data) s :=
  if_neg (by rw [State.dataInRange_iff]; simp only [regCount]; omega)

theorem execLdm_inRange {s : State} (x : RegIx) (h : s.index.toNat + x.toNat + 1 ≤ 4096) :
    execLdm x s = complete (s.loadRegs (x.toNat + 1)) :=
  if_pos ((s.dataInRange_iff _).2 h)

theorem execLdm_outOfRange {s : State} (x : RegIx) (h : 4096 < s.index.toNat + x.toNat + 1) :
    execLdm x s = raise (.memoryAddressOutOfRange .data) s :=
  if_neg (by rw [State.dataInRange_iff]; simp only [regCount]; omega)

theorem execDrw_inRange {s : State} (x y : RegIx) (n : Nibble) (h : s.index.toNat + n.toNat ≤ 4096) :
    execDrw x y n s =
      complete ((s.setFb (s.drawSprite x y n).fb).setVF (collisionFlag (s.drawSprite x y n).collision)) :=
  if_pos ((s.dataInRange_iff _).2 h)

theorem execDrw_outOfRange {s : State} (x y : RegIx) (n : Nibble) (h : 4096 < s.index.toNat + n.toNat) :
    execDrw x y n s = raise (.memoryAddressOutOfRange .data) s :=
  if_neg (by rw [State.dataInRange_iff]; omega)

/-- An address `k` past `a` in Memory is not reduced (R69). -/
theorem toNat_add_offset (a : Addr) (k : Nat) (h : a.toNat + k < 4096) : (a + BitVec.ofNat 12 k).toNat = a.toNat + k := by
  simp only [BitVec.toNat_add, BitVec.toNat_ofNat]; omega

/-! ### The bytes stored and the registers loaded (R164, R165, R166) -/

@[simp] theorem length_bcdDigits (b : Byte) : (bcdDigits b).length = 3 := rfl

theorem State.length_firstRegs (s : State) {k : Nat} (h : k ≤ 16) : (s.firstRegs k).length = k := by
  simp [State.firstRegs, h]

theorem State.getD_firstRegs (s : State) (r : RegIx) {k : Nat} (h : r.toNat < k) :
    (s.firstRegs k).getD r.toNat 0 = s.getV r := by
  have := r.isLt
  simp [State.firstRegs, State.getV, h, Vector.getElem?_eq_getElem this]

/-- What LDM's loop does for `k` registers: the first `k` come from Memory, and nothing else changes. -/
theorem State.loadRegs_spec (s : State) (k : Nat) (h : k ≤ 16) :
    ∃ v : Vector Byte 16, s.loadRegs k = { s with v := v } ∧
      ∀ r, (s.loadRegs k).getV r =
        if r.toNat < k then s.memRead (s.index + BitVec.ofNat 12 r.toNat) else s.getV r := by
  induction k with
  | zero => exact ⟨s.v, rfl, fun r => rfl⟩
  | succ k ih =>
    obtain ⟨v, hv, hr⟩ := ih (by omega)
    have step : s.loadRegs (k + 1) =
        (s.loadRegs k).setV (BitVec.ofNat 4 k) (s.memRead (s.index + BitVec.ofNat 12 k)) := by
      simp only [State.loadRegs, List.range_succ, List.foldl_append, List.foldl_cons, List.foldl_nil]
    refine ⟨_, by rw [step, hv]; rfl, fun r => ?_⟩
    rw [step, State.getV_setV, hr]
    by_cases e : r = BitVec.ofNat 4 k
    · have : r.toNat = k := by rw [e]; simp; omega
      simp [e.symm, this]
    · have : r.toNat ≠ k := fun q => e (by rw [← q]; simp)
      have : (r.toNat < k + 1) ↔ r.toNat < k := by omega
      simp [e, this]

/-! ### The stack (R120, R122) -/

theorem execCall_room {s : State} (nnn : Addr) (h : s.sp.val < 16) :
    execCall nnn s = complete ((s.push s.pc h).setPc (zextAddr nnn)) :=
  dif_pos h

theorem execCall_full {s : State} (nnn : Addr) (h : s.sp.val = 16) : execCall nnn s = raise .stackOverflow s :=
  dif_neg (by omega)

theorem execRet_some {s : State} (h : 0 < s.sp.val) : execRet s = complete (s.drop.setPc (s.top h)) := dif_pos h

theorem execRet_none {s : State} (h : s.sp.val = 0) : execRet s = raise .stackUnderflow s := dif_neg (by omega)

/-! ### Fetch and the step transaction (R24, R28) -/

theorem State.canFetch_iff (s : State) : s.canFetch = true ↔ s.pc.toNat ≤ 0xFFE := decide_eq_true_iff

theorem State.canFetch_false_iff (s : State) : s.canFetch = false ↔ 0xFFE < s.pc.toNat := by
  rw [← Bool.not_eq_true, State.canFetch_iff]; omega

theorem coreStep_of_decode {s : State} {i : Instr} (h : s.canFetch = true) (hd : decode s.fetchWord = some i) :
    coreStep s = exec i (s.beginExecute s.fetchWord) := by
  simp [coreStep, h, executeWord, hd]

theorem coreStep_unrecognised {s : State} (h : s.canFetch = true) (hd : decode s.fetchWord = none) :
    coreStep s = .next ((s.beginExecute s.fetchWord).report .unknownInstruction) := by
  simp [coreStep, h, executeWord, hd, execUnrecognised, raise]

theorem coreStep_refused {s : State} (h : s.canFetch = false) : coreStep s = .next s.fetchRefused := by
  simp [coreStep, h]

/-- The address of the first byte of a word that can be fetched, and of its second (R66). -/
theorem State.fetchWord_eq (s : State) :
    s.fetchWord =
      wordOfBytes (s.memRead (BitVec.ofNat 12 s.pc.toNat)) (s.memRead (BitVec.ofNat 12 (s.pc.toNat + 1))) := by
  have e1 : s.pc.setWidth 12 = BitVec.ofNat 12 s.pc.toNat := by apply BitVec.eq_of_toNat_eq; simp
  have e2 : s.pc.setWidth 12 + 1 = BitVec.ofNat 12 (s.pc.toNat + 1) := by
    apply BitVec.eq_of_toNat_eq; simp [BitVec.toNat_add]
  rw [State.fetchWord, e2, e1]

/-! ### Flags (R21) -/

@[simp] theorem toNat_flagByte (f : Bool) : (flagByte f).toNat = if f then 1 else 0 := by cases f <;> rfl

end Sys2Proof.Machine
end

