-- ==== Sys2Proof/Laws/Effect.lean ====
section
/-! SUPPORT. What the execute phase of an instruction can do, said once: `exec_effect` turns `exec i s = .next t` into the
cases of instruction `i`, so that a rule about all instructions is a case analysis and no proof unfolds a meaning. -/

namespace Sys2Proof.Machine

theorem eq_of_complete {s t : State} (h : complete s = .next t) : t = s.report .ok := (Host.Outcome.next.inj h).symm

theorem eq_of_raise {c : StepCode} {s t : State} (h : raise c s = .next t) : t = s.report c :=
  (Host.Outcome.next.inj h).symm

/-! ### The Keypad (R185) -/

theorem mem_pressedKeys (keys : BitVec 16) (k : KeyId) : k ∈ pressedKeys keys ↔ keys.getLsbD k.toNat = true := by
  have hk := k.isLt
  simp only [pressedKeys, List.mem_map, List.mem_filter, List.mem_range]
  constructor
  · rintro ⟨a, ⟨h1, h2⟩, rfl⟩
    simpa [Nat.mod_eq_of_lt h1] using h2
  · exact fun h => ⟨k.toNat, ⟨hk, h⟩, by simp⟩

theorem pressedKeys_eq_nil (keys : BitVec 16) : pressedKeys keys = [] ↔ keys = 0 := by
  constructor
  · intro h
    apply BitVec.eq_of_getLsbD_eq
    intro i hi
    have := (mem_pressedKeys keys (BitVec.ofNat 4 i)).not.1 (by simp [h])
    simpa [Nat.mod_eq_of_lt hi] using this
  · rintro rfl; simp [pressedKeys]

/-- No key is reported exactly when none is pressed (R185). -/
theorem State.keyAny_eq_none (s : State) : s.keyAny = none ↔ s.keys = 0 := by
  rw [← pressedKeys_eq_nil, State.keyAny]
  split <;> simp_all

/-- A reported key is pressed, and the Keypad has made at most one choice (R185). -/
theorem State.keyAny_eq_some {s t : State} {k : KeyId} (h : s.keyAny = some (k, t)) :
    s.keys.getLsbD k.toNat = true ∧ (t = s ∨ t = s.consumeKeyDraw) := by
  rw [← mem_pressedKeys]
  unfold State.keyAny at h
  split at h
  · cases h
  · rename_i e; cases h; exact ⟨by simp [e], .inl rfl⟩
  · rename_i a b ks e
    cases h
    refine ⟨?_, .inr rfl⟩
    rw [e, List.getD_eq_getElem _ _ (by simpa using Nat.mod_lt _ (Nat.succ_pos _))]
    exact List.getElem_mem _

/-! ### The effect of an instruction -/

/-- The states the execute phase of `i` can lead to from `s`, in the instruction's own cases. -/
def Effect (s t : State) : Instr → Prop
  | .cls => t = (s.setFb Framebuffer.clear).report .ok
  | .ret =>
    (∃ h : 0 < s.sp.val, t = (s.drop.setPc (s.top h)).report .ok) ∨
    (s.sp.val = 0 ∧ t = s.report .stackUnderflow)
  | .jp nnn => t = (s.setPc (zextAddr nnn)).report .ok
  | .call nnn =>
    (∃ h : s.sp.val < 16, t = ((s.push s.pc h).setPc (zextAddr nnn)).report .ok) ∨
    (s.sp.val = 16 ∧ t = s.report .stackOverflow)
  | .sei x nn => t = (s.setPc (if s.getV x = nn then s.pc + 2 else s.pc)).report .ok
  | .snei x nn => t = (s.setPc (if s.getV x = nn then s.pc else s.pc + 2)).report .ok
  | .ser x y => t = (s.setPc (if s.getV x = s.getV y then s.pc + 2 else s.pc)).report .ok
  | .ldi x nn => t = (s.setV x nn).report .ok
  | .addi x nn => t = (s.setV x (s.getV x + nn)).report .ok
  | .mov x y => t = (s.setV x (s.getV y)).report .ok
  | .or x y => t = (s.setV x (s.getV x ||| s.getV y)).report .ok
  | .and x y => t = (s.setV x (s.getV x &&& s.getV y)).report .ok
  | .xor x y => t = (s.setV x (s.getV x ^^^ s.getV y)).report .ok
  | .add x y => t = ((s.setV x (s.getV x + s.getV y)).setV 0xF (carryFlag (s.getV x) (s.getV y))).report .ok
  | .sub x y => t = ((s.setV x (s.getV x - s.getV y)).setV 0xF (noBorrowFlag (s.getV x) (s.getV y))).report .ok
  | .shr x _ => t = ((s.setV 0xF (shrFlag (s.getV x))).setV x (s.getV x >>> 1)).report .ok
  | .suby x y => t = ((s.setV y (s.getV y - s.getV x)).setV 0xF (noBorrowFlag (s.getV y) (s.getV x))).report .ok
  | .shl x _ => t = ((s.setV 0xF (shlFlag (s.getV x))).setV x (s.getV x <<< 1)).report .ok
  | .sner x y => t = (s.setPc (if s.getV x = s.getV y then s.pc else s.pc + 2)).report .ok
  | .ldix nnn => t = (s.setIndex nnn).report .ok
  | .jpv0 nnn => t = (s.setPc (zextByte16 (s.getV 0) + zextAddr nnn)).report .ok
  | .rnd x nn => t = (s.consumeRand.setV x (s.randByte &&& nn)).report .ok
  | .drw x y n =>
    (s.index.toNat + n.toNat ≤ 4096 ∧
      t = ((s.setFb (s.drawSprite x y n).fb).setV 0xF (collisionFlag (s.drawSprite x y n).collision)).report .ok) ∨
    (4096 < s.index.toNat + n.toNat ∧ t = s.report (.memoryAddressOutOfRange .data))
  | .skp x => t = (s.setPc (if s.keyPressed (keyIdOf (s.getV x)) then s.pc + 2 else s.pc)).report .ok
  | .sknp x => t = (s.setPc (if s.keyPressed (keyIdOf (s.getV x)) then s.pc else s.pc + 2)).report .ok
  | .lddt x => t = (s.setV x s.dt).report .ok
  | .wkey x =>
    (s.keys = 0 ∧ t = (s.setPc (s.pc - 2)).report .waitKey) ∨
    (∃ k : KeyId, s.keys.getLsbD k.toNat = true ∧
      (t = (s.setV x (k.setWidth 8)).report .ok ∨ t = (s.consumeKeyDraw.setV x (k.setWidth 8)).report .ok))
  | .stdt x => t = (s.setDT (s.getV x)).report .ok
  | .stst x => t = (s.setST (s.getV x)).report .ok
  | .addix x => t = (s.setIndex (s.index + zextByte12 (s.getV x))).report .ok
  | .font x => t = (s.setIndex (fontAddr s.fontBase (fontDigit (s.getV x)))).report .ok
  | .bcd x =>
    (s.index.toNat + 3 ≤ 4096 ∧ t = (s.setMem (s.mem.writeBytes s.index (bcdDigits (s.getV x)))).report .ok) ∨
    (4096 < s.index.toNat + 3 ∧ t = s.report (.memoryAddressOutOfRange .data))
  | .stm x =>
    (s.index.toNat + x.toNat + 1 ≤ 4096 ∧
      t = (s.setMem (s.mem.writeBytes s.index (s.firstRegs (x.toNat + 1)))).report .ok) ∨
    (4096 < s.index.toNat + x.toNat + 1 ∧ t = s.report (.memoryAddressOutOfRange .data))
  | .ldm x =>
    (s.index.toNat + x.toNat + 1 ≤ 4096 ∧ ∃ v : Vector Byte 16, t = State.report { s with v := v } .ok ∧
      ∀ r, t.getV r = if r.toNat < x.toNat + 1 then s.memRead (s.index + BitVec.ofNat 12 r.toNat) else s.getV r) ∨
    (4096 < s.index.toNat + x.toNat + 1 ∧ t = s.report (.memoryAddressOutOfRange .data))

/-- The inversion lemma of the execute phase: whatever `exec` answers is one of the instruction's cases. -/
theorem exec_effect {i : Instr} {s t : State} (h : exec i s = .next t) : Effect s t i := by
  cases i
  case ret =>
    by_cases h0 : s.sp.val = 0
    · exact .inr ⟨h0, eq_of_raise ((execRet_none h0).symm.trans h)⟩
    · exact .inl ⟨by omega, eq_of_complete ((execRet_some (by omega)).symm.trans h)⟩
  case call nnn =>
    by_cases h16 : s.sp.val = 16
    · exact .inr ⟨h16, eq_of_raise ((execCall_full nnn h16).symm.trans h)⟩
    · have := s.sp.isLt
      exact .inl ⟨by omega, eq_of_complete ((execCall_room nnn (by omega)).symm.trans h)⟩
  case drw x y n =>
    by_cases hr : s.index.toNat + n.toNat ≤ 4096
    · exact .inl ⟨hr, eq_of_complete ((execDrw_inRange x y n hr).symm.trans h)⟩
    · exact .inr ⟨by omega, eq_of_raise ((execDrw_outOfRange x y n (by omega)).symm.trans h)⟩
  case bcd x =>
    by_cases hr : s.index.toNat + 3 ≤ 4096
    · exact .inl ⟨hr, eq_of_complete ((execBcd_inRange x hr).symm.trans h)⟩
    · exact .inr ⟨by omega, eq_of_raise ((execBcd_outOfRange x (by omega)).symm.trans h)⟩
  case stm x =>
    by_cases hr : s.index.toNat + x.toNat + 1 ≤ 4096
    · exact .inl ⟨hr, eq_of_complete ((execStm_inRange x hr).symm.trans h)⟩
    · exact .inr ⟨by omega, eq_of_raise ((execStm_outOfRange x (by omega)).symm.trans h)⟩
  case ldm x =>
    by_cases hr : s.index.toNat + x.toNat + 1 ≤ 4096
    · have ht := eq_of_complete ((execLdm_inRange x hr).symm.trans h)
      obtain ⟨v, hv, hg⟩ := s.loadRegs_spec (x.toNat + 1) (by have := x.isLt; omega)
      refine .inl ⟨hr, v, hv ▸ ht, fun r => ?_⟩
      rw [ht, State.report_getV, hg]
    · exact .inr ⟨by omega, eq_of_raise ((execLdm_outOfRange x (by omega)).symm.trans h)⟩
  case wkey x =>
    change execWkey x s = _ at h
    unfold execWkey at h
    split at h
    · rename_i k u hk
      obtain ⟨hp, rfl | rfl⟩ := State.keyAny_eq_some hk
      · exact .inr ⟨k, hp, .inl (eq_of_complete h)⟩
      · exact .inr ⟨k, hp, .inr (eq_of_complete h)⟩
    · rename_i hk
      exact .inl ⟨(s.keyAny_eq_none).1 hk, (Host.Outcome.next.inj h).symm⟩
  case sei x nn => have h := eq_of_complete h; simpa [Effect, State.skipIf_eq] using h
  case snei x nn => have h := eq_of_complete h; simpa [Effect, State.skipIf_eq] using h
  case ser x y => have h := eq_of_complete h; simpa [Effect, State.skipIf_eq] using h
  case sner x y => have h := eq_of_complete h; simpa [Effect, State.skipIf_eq] using h
  case skp x => have h := eq_of_complete h; simpa [Effect, State.skipIf_eq] using h
  case sknp x =>
    have h := eq_of_complete h
    rw [State.skipIf_eq] at h
    cases hk : s.keyPressed (keyIdOf (s.getV x)) <;> simpa [Effect, hk] using h
  all_goals exact eq_of_complete h

end Sys2Proof.Machine
end

