-- ==== Sys2Proof/Laws/Framebuffer.lean ====
section
/-! SUPPORT. What drawing a sprite does, pixel by pixel (spec 44_display.md R172): a draw flips each pixel of the screen at
most once, those where the sprite has a 1, and collides exactly when one of those was on. -/

namespace Sys2Proof.Machine

theorem Framebuffer.pixel_clear (px py : Nat) : Framebuffer.clear.pixel px py = false := by
  simp [Framebuffer.pixel, Framebuffer.clear]

theorem Framebuffer.pixel_toggle (fb : Framebuffer) {a b px py : Nat} (ha : a < 64) (hb : b < 32) (hx : px < 64)
    (hy : py < 32) : (fb.toggle a b).pixel px py = (fb.pixel px py != (decide (px = a) && decide (py = b))) := by
  simp only [Framebuffer.pixel, Framebuffer.toggle, Nat.mod_eq_of_lt ha, Nat.mod_eq_of_lt hb, Nat.mod_eq_of_lt hx,
    Nat.mod_eq_of_lt hy, Vector.getElem_set]
  by_cases h : b = py
  · subst h
    by_cases g : px = a
    · subst g; simp [hx]
    · have : ¬ px < a → px - a ≠ 0 := by omega
      by_cases hlt : px < a <;> simp [g, hlt, this, BitVec.getLsbD_one, BitVec.getLsbD_shiftLeft]
  · have : ¬ py = b := fun e => h e.symm
    simp [h, this]

/-- Two framebuffers with the same pixels are the same. -/
theorem Framebuffer.ext_pixel {fb fb' : Framebuffer}
    (h : ∀ px py, px < 64 → py < 32 → fb.pixel px py = fb'.pixel px py) : fb = fb' := by
  apply Vector.ext
  intro j hj
  apply BitVec.eq_of_getLsbD_eq
  intro i hi
  simpa [Framebuffer.pixel, Nat.mod_eq_of_lt hi, Nat.mod_eq_of_lt hj] using h i j hi hj

/-- A drawing `d` that began on `fb` has flipped the pixels of `S`, each once, and has collided exactly when one of them
was on. -/
structure Drawing.Flipped (fb : Framebuffer) (S : Nat → Nat → Bool) (d : Drawing) : Prop where
  pixel : ∀ px py, px < 64 → py < 32 → d.fb.pixel px py = (fb.pixel px py != S px py)
  hit : d.collision = true ↔ ∃ px py, px < 64 ∧ py < 32 ∧ S px py = true ∧ fb.pixel px py = true

/-- The pixels of a sprite that have been drawn once the rows below `r` are done, and the columns below `k` of row `r`. -/
def spriteDone (x y r k : Nat) (row : Nat → Byte) (px py : Nat) : Bool :=
  let c := (px + 64 - x % 64) % 64
  let q := (py + 32 - y % 32) % 32
  ((decide (q < r) && decide (c < 8)) || (decide (q = r) && decide (c < k))) && (row q).getLsbD (7 - c)

theorem drawPixel_flipped {x y r k : Nat} {row : Nat → Byte} {fb : Framebuffer} {d : Drawing} (hr : r < 32) (hk : k < 8)
    (h : d.Flipped fb (spriteDone x y r k row)) :
    (drawPixel x y r (row r) d k).Flipped fb (spriteDone x y r (k + 1) row) := by
  have key : ∀ px py, px < 64 → py < 32 → spriteDone x y r (k + 1) row px py =
      (spriteDone x y r k row px py ||
        (decide (px = (x + k) % 64) && decide (py = (y + r) % 32) && (row r).getLsbD (7 - k))) ∧
      (px = (x + k) % 64 ∧ py = (y + r) % 32 → spriteDone x y r k row px py = false) := by
    intro px py hx hy
    have e : (px = (x + k) % 64 ↔ (px + 64 - x % 64) % 64 = k) := by omega
    have e' : (py = (y + r) % 32 ↔ (py + 32 - y % 32) % 32 = r) := by omega
    have d1 : decide (px = (x + k) % 64) = decide ((px + 64 - x % 64) % 64 = k) := decide_eq_decide.2 e
    have d2 : decide (py = (y + r) % 32) = decide ((py + 32 - y % 32) % 32 = r) := decide_eq_decide.2 e'
    rw [d1, d2, e, e']
    simp only [spriteDone]
    generalize (px + 64 - x % 64) % 64 = c
    generalize (py + 32 - y % 32) % 32 = q
    refine ⟨?_, by rintro ⟨rfl, rfl⟩; simp⟩
    by_cases hq : q = r
    · subst hq
      by_cases hc : c = k
      · subst hc; simp
      · have : (c < k + 1) = (c < k) := by rw [eq_iff_iff]; omega
        simp [hc, this]
    · simp [hq]
  by_cases hb : (row r).getLsbD (7 - k) = true
  · have hpx : (x + k) % 64 < 64 := Nat.mod_lt _ (by decide)
    have hpy : (y + r) % 32 < 32 := Nat.mod_lt _ (by decide)
    have hpix := h.pixel _ _ hpx hpy
    rw [(key _ _ hpx hpy).2 ⟨rfl, rfl⟩, Bool.bne_false] at hpix
    simp only [drawPixel, hb, if_true]
    refine ⟨fun px py hx hy => ?_, ?_⟩
    · simp only [Framebuffer.pixel_toggle _ hpx hpy hx hy, h.pixel px py hx hy, (key px py hx hy).1, hb, Bool.and_true]
      by_cases hat : px = (x + k) % 64 ∧ py = (y + r) % 32
      · have hs := (key px py hx hy).2 hat
        obtain ⟨rfl, rfl⟩ := hat
        simp [hs]
      · have : (decide (px = (x + k) % 64) && decide (py = (y + r) % 32)) = false := by simpa using hat
        simp [this]
    · rw [Bool.or_eq_true, h.hit, hpix]
      constructor
      · rintro (⟨px, py, hx, hy, hs, hf⟩ | hf)
        · exact ⟨px, py, hx, hy, by rw [(key px py hx hy).1, hs, Bool.true_or], hf⟩
        · exact ⟨_, _, hpx, hpy, by rw [(key _ _ hpx hpy).1]; simp [hb], hf⟩
      · rintro ⟨px, py, hx, hy, hs, hf⟩
        rw [(key px py hx hy).1, Bool.or_eq_true] at hs
        rcases hs with hs | hs
        · exact .inl ⟨px, py, hx, hy, hs, hf⟩
        · simp only [Bool.and_eq_true, decide_eq_true_eq] at hs
          exact .inr (by rw [← hs.1.1, ← hs.1.2]; exact hf)
  · have : ∀ px py, px < 64 → py < 32 → spriteDone x y r (k + 1) row px py = spriteDone x y r k row px py :=
      fun px py hx hy => by rw [(key px py hx hy).1]; simp [hb]
    simp only [drawPixel, hb]
    refine ⟨fun px py hx hy => by rw [this px py hx hy]; exact h.pixel px py hx hy, h.hit.trans ?_⟩
    constructor <;> rintro ⟨px, py, hx, hy, hs, hf⟩ <;> refine ⟨px, py, hx, hy, ?_, hf⟩
    · rwa [this px py hx hy]
    · rwa [this px py hx hy] at hs

theorem drawRow_flipped {x y r : Nat} {row : Nat → Byte} {fb : Framebuffer} {d : Drawing} (hr : r < 32)
    (h : d.Flipped fb (spriteDone x y r 0 row)) :
    (drawRow x y r (row r) d).Flipped fb (spriteDone x y (r + 1) 0 row) := by
  have cols : ∀ k, k ≤ 8 → ((List.range k).foldl (drawPixel x y r (row r)) d).Flipped fb (spriteDone x y r k row) := by
    intro k
    induction k with
    | zero => exact fun _ => h
    | succ k ih =>
      intro hk
      rw [List.range_succ, List.foldl_append]
      exact drawPixel_flipped hr (by omega) (ih (by omega))
  have e : spriteDone x y (r + 1) 0 row = spriteDone x y r 8 row := by
    funext px py
    simp only [spriteDone]
    generalize (px + 64 - x % 64) % 64 = c
    generalize (py + 32 - y % 32) % 32 = q
    have : (q < r + 1) = (q < r ∨ q = r) := by rw [eq_iff_iff]; omega
    by_cases h1 : q < r <;> by_cases h2 : q = r <;> by_cases h3 : c < 8 <;> simp [h1, h2, h3, this]
  rw [e]
  exact cols 8 (Nat.le_refl 8)

/-- What `DispDraw` does (R172): it flips the pixels of the sprite's `h` rows, wrapped on both axes, and says whether one
of them was on. -/
theorem dispDraw_flipped (m : Memory) (fb : Framebuffer) (x y : Byte) (a : Addr) {h : Nat} (hh : h ≤ 32) :
    (dispDraw m fb x y a h).Flipped fb
      (spriteDone x.toNat y.toNat h 0 (fun r => m.read (a + BitVec.ofNat 12 r))) := by
  unfold dispDraw
  induction h with
  | zero => exact ⟨fun px py _ _ => by simp [spriteDone], by simp [spriteDone]⟩
  | succ h ih =>
    rw [List.range_succ, List.foldl_append]
    exact drawRow_flipped (by omega) (ih (by omega))

end Sys2Proof.Machine
end

