-- ==== Sys2Proof/Laws/PerInstr.lean ====
section
/-! SUPPORT. Statements about every instruction as syntax, one lemma per constructor. -/

namespace Sys2Proof.Laws.EncodesToRow

/-- The word of an instruction agrees with its own row of the opcode map (spec 30_encoding.md R96). -/
def Statement (i : Instr) : Prop := ∃ r ∈ opcodeMap, r.mnemonic = i.mnemonic ∧ r.admits (encode i) = true

theorem of_mask {i : Instr} (r : OpcodeRow) (hr : r ∈ opcodeMap) (hm : r.mnemonic = i.mnemonic)
    (hw : encode i &&& r.mask = r.pattern) : Statement i :=
  ⟨r, hr, hm, by simp [OpcodeRow.admits, hw]⟩

theorem of_op {i : Instr} (r : OpcodeRow) (op : Nibble) (hr : r ∈ opcodeMap) (hm : r.mnemonic = i.mnemonic)
    (hk : r.mask = 0xF000) (hp : r.pattern = wordXYN op 0 0 0) (ho : fieldOp (encode i) = op) : Statement i :=
  of_mask r hr hm (by rw [hk, hp, mask_F000, ho])

theorem of_op_low {i : Instr} (r : OpcodeRow) (op n : Nibble) (hr : r ∈ opcodeMap) (hm : r.mnemonic = i.mnemonic)
    (hk : r.mask = 0xF00F) (hp : r.pattern = wordXYN op 0 0 n) (ho : fieldOp (encode i) = op)
    (hn : fieldN (encode i) = n) : Statement i :=
  of_mask r hr hm (by rw [hk, hp, mask_F00F]; exact ⟨ho, hn⟩)

theorem of_op_byte {i : Instr} (r : OpcodeRow) (op : Nibble) (nn : Byte) (hr : r ∈ opcodeMap)
    (hm : r.mnemonic = i.mnemonic) (hk : r.mask = 0xF0FF)
    (hp : r.pattern = wordXYN op 0 (nn.extractLsb' 4 4) (nn.extractLsb' 0 4)) (ho : fieldOp (encode i) = op)
    (hn : fieldNN (encode i) = nn) : Statement i :=
  of_mask r hr hm (by rw [hk, hp, mask_F0FF]; exact ⟨ho, (fieldNN_eq_iff _ _).1 hn⟩)

theorem cls : Statement .cls :=
  of_mask ⟨"CLS", 0x00E0, 0xFFFF⟩ (by decide) rfl (by decide)

theorem ret : Statement .ret :=
  of_mask ⟨"RET", 0x00EE, 0xFFFF⟩ (by decide) rfl (by decide)

theorem jp (nnn : Addr) : Statement (.jp nnn) :=
  of_op ⟨"JP", 0x1000, 0xF000⟩ 0x1 (by decide) rfl rfl (by decide) (by simp [encode])

theorem call (nnn : Addr) : Statement (.call nnn) :=
  of_op ⟨"CALL", 0x2000, 0xF000⟩ 0x2 (by decide) rfl rfl (by decide) (by simp [encode])

theorem sei (x : RegIx) (nn : Byte) : Statement (.sei x nn) :=
  of_op ⟨"SEI", 0x3000, 0xF000⟩ 0x3 (by decide) rfl rfl (by decide) (by simp [encode])

theorem snei (x : RegIx) (nn : Byte) : Statement (.snei x nn) :=
  of_op ⟨"SNEI", 0x4000, 0xF000⟩ 0x4 (by decide) rfl rfl (by decide) (by simp [encode])

theorem ser (x : RegIx) (y : RegIx) : Statement (.ser x y) :=
  of_op_low ⟨"SER", 0x5000, 0xF00F⟩ 0x5 0x0 (by decide) rfl rfl (by decide) (by simp [encode]) (by simp [encode])

theorem ldi (x : RegIx) (nn : Byte) : Statement (.ldi x nn) :=
  of_op ⟨"LDI", 0x6000, 0xF000⟩ 0x6 (by decide) rfl rfl (by decide) (by simp [encode])

theorem addi (x : RegIx) (nn : Byte) : Statement (.addi x nn) :=
  of_op ⟨"ADDI", 0x7000, 0xF000⟩ 0x7 (by decide) rfl rfl (by decide) (by simp [encode])

theorem mov (x : RegIx) (y : RegIx) : Statement (.mov x y) :=
  of_op_low ⟨"MOV", 0x8000, 0xF00F⟩ 0x8 0x0 (by decide) rfl rfl (by decide) (by simp [encode]) (by simp [encode])

theorem or (x : RegIx) (y : RegIx) : Statement (.or x y) :=
  of_op_low ⟨"OR", 0x8001, 0xF00F⟩ 0x8 0x1 (by decide) rfl rfl (by decide) (by simp [encode]) (by simp [encode])

theorem and (x : RegIx) (y : RegIx) : Statement (.and x y) :=
  of_op_low ⟨"AND", 0x8002, 0xF00F⟩ 0x8 0x2 (by decide) rfl rfl (by decide) (by simp [encode]) (by simp [encode])

theorem xor (x : RegIx) (y : RegIx) : Statement (.xor x y) :=
  of_op_low ⟨"XOR", 0x8003, 0xF00F⟩ 0x8 0x3 (by decide) rfl rfl (by decide) (by simp [encode]) (by simp [encode])

theorem add (x : RegIx) (y : RegIx) : Statement (.add x y) :=
  of_op_low ⟨"ADD", 0x8004, 0xF00F⟩ 0x8 0x4 (by decide) rfl rfl (by decide) (by simp [encode]) (by simp [encode])

theorem sub (x : RegIx) (y : RegIx) : Statement (.sub x y) :=
  of_op_low ⟨"SUB", 0x8005, 0xF00F⟩ 0x8 0x5 (by decide) rfl rfl (by decide) (by simp [encode]) (by simp [encode])

theorem shr (x : RegIx) (y : RegIx) : Statement (.shr x y) :=
  of_op_low ⟨"SHR", 0x8006, 0xF00F⟩ 0x8 0x6 (by decide) rfl rfl (by decide) (by simp [encode]) (by simp [encode])

theorem suby (x : RegIx) (y : RegIx) : Statement (.suby x y) :=
  of_op_low ⟨"SUBY", 0x8007, 0xF00F⟩ 0x8 0x7 (by decide) rfl rfl (by decide) (by simp [encode]) (by simp [encode])

theorem shl (x : RegIx) (y : RegIx) : Statement (.shl x y) :=
  of_op_low ⟨"SHL", 0x800E, 0xF00F⟩ 0x8 0xE (by decide) rfl rfl (by decide) (by simp [encode]) (by simp [encode])

theorem sner (x : RegIx) (y : RegIx) : Statement (.sner x y) :=
  of_op_low ⟨"SNER", 0x9000, 0xF00F⟩ 0x9 0x0 (by decide) rfl rfl (by decide) (by simp [encode]) (by simp [encode])

theorem ldix (nnn : Addr) : Statement (.ldix nnn) :=
  of_op ⟨"LDIX", 0xA000, 0xF000⟩ 0xA (by decide) rfl rfl (by decide) (by simp [encode])

theorem jpv0 (nnn : Addr) : Statement (.jpv0 nnn) :=
  of_op ⟨"JPV0", 0xB000, 0xF000⟩ 0xB (by decide) rfl rfl (by decide) (by simp [encode])

theorem rnd (x : RegIx) (nn : Byte) : Statement (.rnd x nn) :=
  of_op ⟨"RND", 0xC000, 0xF000⟩ 0xC (by decide) rfl rfl (by decide) (by simp [encode])

theorem drw (x : RegIx) (y : RegIx) (n : Nibble) : Statement (.drw x y n) :=
  of_op ⟨"DRW", 0xD000, 0xF000⟩ 0xD (by decide) rfl rfl (by decide) (by simp [encode])

theorem skp (x : RegIx) : Statement (.skp x) :=
  of_op_byte ⟨"SKP", 0xE09E, 0xF0FF⟩ 0xE 0x9E (by decide) rfl rfl (by decide) (by simp [encode])
    (by simp [encode])

theorem sknp (x : RegIx) : Statement (.sknp x) :=
  of_op_byte ⟨"SKNP", 0xE0A1, 0xF0FF⟩ 0xE 0xA1 (by decide) rfl rfl (by decide) (by simp [encode])
    (by simp [encode])

theorem lddt (x : RegIx) : Statement (.lddt x) :=
  of_op_byte ⟨"LDDT", 0xF007, 0xF0FF⟩ 0xF 0x07 (by decide) rfl rfl (by decide) (by simp [encode])
    (by simp [encode])

theorem wkey (x : RegIx) : Statement (.wkey x) :=
  of_op_byte ⟨"WKEY", 0xF00A, 0xF0FF⟩ 0xF 0x0A (by decide) rfl rfl (by decide) (by simp [encode])
    (by simp [encode])

theorem stdt (x : RegIx) : Statement (.stdt x) :=
  of_op_byte ⟨"STDT", 0xF015, 0xF0FF⟩ 0xF 0x15 (by decide) rfl rfl (by decide) (by simp [encode])
    (by simp [encode])

theorem stst (x : RegIx) : Statement (.stst x) :=
  of_op_byte ⟨"STST", 0xF018, 0xF0FF⟩ 0xF 0x18 (by decide) rfl rfl (by decide) (by simp [encode])
    (by simp [encode])

theorem addix (x : RegIx) : Statement (.addix x) :=
  of_op_byte ⟨"ADDIX", 0xF01E, 0xF0FF⟩ 0xF 0x1E (by decide) rfl rfl (by decide) (by simp [encode])
    (by simp [encode])

theorem font (x : RegIx) : Statement (.font x) :=
  of_op_byte ⟨"FONT", 0xF029, 0xF0FF⟩ 0xF 0x29 (by decide) rfl rfl (by decide) (by simp [encode])
    (by simp [encode])

theorem bcd (x : RegIx) : Statement (.bcd x) :=
  of_op_byte ⟨"BCD", 0xF033, 0xF0FF⟩ 0xF 0x33 (by decide) rfl rfl (by decide) (by simp [encode])
    (by simp [encode])

theorem stm (x : RegIx) : Statement (.stm x) :=
  of_op_byte ⟨"STM", 0xF055, 0xF0FF⟩ 0xF 0x55 (by decide) rfl rfl (by decide) (by simp [encode])
    (by simp [encode])

theorem ldm (x : RegIx) : Statement (.ldm x) :=
  of_op_byte ⟨"LDM", 0xF065, 0xF0FF⟩ 0xF 0x65 (by decide) rfl rfl (by decide) (by simp [encode])
    (by simp [encode])

end Sys2Proof.Laws.EncodesToRow
end

