-- ==== Sys2Proof/Laws/Step.lean ====
section
/-! SUPPORT. What the outside can do between two steps, said once (spec 00_scope.md R13): its events never touch Memory, the
framebuffer, the oracles, the parameter or the record, and they take no notice of what Memory holds. -/

namespace Sys2Proof.Machine

/-- What no event touches. -/
structure State.SameInside (s t : State) : Prop where
  mem : t.mem = s.mem
  fb : t.fb = s.fb
  rand : t.rand = s.rand
  keyDraws : t.keyDraws = s.keyDraws
  fontBase : t.fontBase = s.fontBase
  result : t.result = s.result
  firstCondition : t.firstCondition = s.firstCondition

theorem State.SameInside.refl (s : State) : s.SameInside s := ⟨rfl, rfl, rfl, rfl, rfl, rfl, rfl⟩

theorem State.SameInside.trans {s t u : State} (h : s.SameInside t) (g : t.SameInside u) : s.SameInside u :=
  ⟨g.mem.trans h.mem, g.fb.trans h.fb, g.rand.trans h.rand, g.keyDraws.trans h.keyDraws, g.fontBase.trans h.fontBase,
    g.result.trans h.result, g.firstCondition.trans h.firstCondition⟩

theorem State.deliver_sameInside (s : State) (e : DriverEvent) : s.SameInside (s.deliver e) := by
  cases e <;> exact ⟨rfl, rfl, rfl, rfl, rfl, rfl, rfl⟩

theorem State.deliverAll_sameInside (s : State) (es : List DriverEvent) : s.SameInside (s.deliverAll es) := by
  induction es generalizing s with
  | nil => exact .refl s
  | cons e es ih => exact (s.deliver_sameInside e).trans (ih _)

theorem State.betweenSteps_sameInside (s : State) : s.SameInside s.betweenSteps := by
  unfold State.betweenSteps
  split
  · exact .refl s
  · rename_i es rest _
    have h := State.deliverAll_sameInside { s with schedule := rest } es
    exact ⟨h.mem, h.fb, h.rand, h.keyDraws, h.fontBase, h.result, h.firstCondition⟩

/-- CORE's program position after an event: where it was, or reset. -/
theorem State.deliver_pc_stack (s : State) (e : DriverEvent) :
    ((s.deliver e).pc = s.pc ∧ (s.deliver e).stack = s.stack) ∨
    ((s.deliver e).pc = Config.resetPc ∧ (s.deliver e).stack = Vector.replicate 16 0) := by
  cases e <;> first | exact .inl ⟨rfl, rfl⟩ | exact .inr ⟨rfl, rfl⟩

theorem State.deliverAll_pc_stack (s : State) (es : List DriverEvent) :
    ((s.deliverAll es).pc = s.pc ∧ (s.deliverAll es).stack = s.stack) ∨
    ((s.deliverAll es).pc = Config.resetPc ∧ (s.deliverAll es).stack = Vector.replicate 16 0) := by
  induction es generalizing s with
  | nil => exact .inl ⟨rfl, rfl⟩
  | cons e es ih =>
    rcases ih (s.deliver e) with ⟨h1, h2⟩ | h
    · rcases s.deliver_pc_stack e with ⟨g1, g2⟩ | ⟨g1, g2⟩
      · exact .inl ⟨h1.trans g1, h2.trans g2⟩
      · exact .inr ⟨h1.trans g1, h2.trans g2⟩
    · exact .inr h

theorem State.betweenSteps_pc_stack (s : State) :
    (s.betweenSteps.pc = s.pc ∧ s.betweenSteps.stack = s.stack) ∨
    (s.betweenSteps.pc = Config.resetPc ∧ s.betweenSteps.stack = Vector.replicate 16 0) := by
  unfold State.betweenSteps
  split
  · exact .inl ⟨rfl, rfl⟩
  · exact State.deliverAll_pc_stack _ _

theorem State.deliverAll_setMem (s : State) (m : Memory) (es : List DriverEvent) :
    (s.setMem m).deliverAll es = (s.deliverAll es).setMem m := by
  induction es generalizing s with
  | nil => rfl
  | cons e es ih =>
    have : (s.setMem m).deliver e = (s.deliver e).setMem m := by cases e <;> rfl
    exact (congrArg (State.deliverAll · es) this).trans (ih _)

/-- Events take no notice of Memory: a change of Memory before them is a change of Memory after them. -/
theorem State.betweenSteps_setMem (s : State) (m : Memory) : (s.setMem m).betweenSteps = s.betweenSteps.setMem m := by
  unfold State.betweenSteps
  rw [State.setMem_schedule]
  split
  · rfl
  · exact State.deliverAll_setMem { s with schedule := _ } m _

/-- The address `withFetchWord` stores at can be fetched from. -/
theorem State.fetchable_canFetch (s : State) : s.fetchable.betweenSteps.canFetch = true := by
  unfold State.fetchable
  split
  · assumption
  · rw [State.canFetch_iff]
    rcases State.betweenSteps_pc_stack (s.setPc Config.resetPc) with ⟨h, -⟩ | ⟨h, -⟩ <;> rw [h]
    · exact (by decide : Config.resetPc.toNat ≤ 0xFFE)
    · decide

end Sys2Proof.Machine
end

