-- ==== Sys2Proof/Machine/Loader.lean ====
section
/-! DEFINITION. What the loader does to Memory before the first step (spec 70_reset_and_hazards.md R244, R245, R248). No
step calls these: a program comes to run by being loaded from outside the machine (assumption 8). -/

namespace Sys2Proof.Machine

/-- The font stored at this machine's `FONT_BASE` (R168, R245). -/
def State.loadFont (s : State) : State := s.setMem (s.mem.writeBytes s.fontBase Config.fontGlyphs)

/-- A program stored at 0x200; `none` when it has more than 3584 bytes (R244). -/
def State.loadProgram (s : State) (bytes : List Byte) : Option State :=
  if bytes.length ≤ Config.programMax then some (s.setMem (s.mem.writeBytes Config.programBase bytes)) else none

end Sys2Proof.Machine
end

