-- ==== Sys2Proof/Tests/Slice0.lean ====
section
/-! SUPPORT. Tests of the model, each expected value taken from the spec: the worked examples and vectors of
95_test_vectors.md (their row is named) or the example of a rule. After them, for each statement of Certificates that has
hypotheses, a concrete input that meets them, at the ends of their ranges. -/

namespace Sys2Proof.Tests

open Sys2Proof Sys2Proof.Machine

/-! ### The word check: an ill-formed word for each group is refused (R97; vector X1) -/

theorem test_group0_refused : wellFormedWord 0x0000 = false ∧ wellFormedWord 0x0123 = false := by decide
theorem test_group5_refused : wellFormedWord 0x5121 = false := by decide
theorem test_group8_refused : wellFormedWord 0x8008 = false ∧ wellFormedWord 0x800F = false := by decide
theorem test_group9_refused : wellFormedWord 0x9001 = false := by decide
theorem test_groupE_refused : wellFormedWord 0xE000 = false ∧ wellFormedWord 0xE09F = false := by decide
theorem test_groupF_refused : wellFormedWord 0xF056 = false ∧ wellFormedWord 0xFF75 = false := by decide

/-- The decoder refuses the words of vector X1. -/
theorem test_decode_refuses_unrecognised :
    [0x0000, 0x00E1, 0x00FE, 0x0123, 0x5121, 0x8008, 0x800F, 0x9001, 0xE000, 0xE09F, 0xF000, 0xF056, 0xFF75].map decode
      = List.replicate 13 none := by decide

/-! ### Decoding: a word written out from the encoding of every row (R96, R103) -/

theorem test_decode_flow :
    decode 0b0000000011101110 = some .ret ∧ decode 0x1234 = some (.jp 0x234) ∧ decode 0x2300 = some (.call 0x300) ∧
    decode 0xB304 = some (.jpv0 0x304) := by decide

theorem test_decode_skip :
    decode 0x3A42 = some (.sei 0xA 0x42) ∧ decode 0x4A43 = some (.snei 0xA 0x43) ∧ decode 0x5120 = some (.ser 1 2) ∧
    decode 0x9120 = some (.sner 1 2) ∧ decode 0xE59E = some (.skp 5) ∧ decode 0xE6A1 = some (.sknp 6) := by decide

theorem test_decode_alu :
    decode 0x6005 = some (.ldi 0 0x05) ∧ decode 0x7A01 = some (.addi 0xA 0x01) ∧ decode 0x8120 = some (.mov 1 2) ∧
    decode 0x8121 = some (.or 1 2) ∧ decode 0x8122 = some (.and 1 2) ∧ decode 0x8123 = some (.xor 1 2) ∧
    decode 0b1000000000010100 = some (.add 0 1) ∧ decode 0x8F15 = some (.sub 0xF 1) ∧ decode 0x8016 = some (.shr 0 1) ∧
    decode 0x80F7 = some (.suby 0 0xF) ∧ decode 0x810E = some (.shl 1 0) ∧ decode 0xC30F = some (.rnd 3 0x0F) := by decide

theorem test_decode_index :
    decode 0xA2F0 = some (.ldix 0x2F0) ∧ decode 0xF21E = some (.addix 2) ∧ decode 0xF329 = some (.font 3) ∧
    decode 0xF433 = some (.bcd 4) ∧ decode 0xFF55 = some (.stm 0xF) ∧ decode 0xF265 = some (.ldm 2) := by decide

theorem test_decode_display_timer_key :
    decode 0x00E0 = some .cls ∧ decode 0xD125 = some (.drw 1 2 5) ∧ decode 0xF207 = some (.lddt 2) ∧
    decode 0xF30A = some (.wkey 3) ∧ decode 0xF115 = some (.stdt 1) ∧ decode 0xF118 = some (.stst 1) := by decide

/-- The first byte in Memory is the high byte of the word (R66, R103). -/
theorem test_decode_bytes : decodeBytes [0x12, 0x34, 0x60] = some (.jp 0x234, [0x60]) := by decide
theorem test_decode_bytes_short : decodeBytes [0x12] = none := by decide
theorem test_encode_bytes : encodeBytes (.add 0 1) = [0x80, 0x14] := by decide
theorem test_decode_table_word : decodeTableWord 16 0x8014 = some (.add 0 1) := by decide

/-! ### Single steps -/

/-- The state after one step that runs the word `w`. -/
def after (s : State) (w : Nat) : State :=
  match step (s.withFetchWord 16 w) with
  | .next t => t
  | _ => s

/-- The reset state with `V[x] = a` and `V[y] = b`. -/
def regs2 (x : RegIx) (a : Byte) (y : RegIx) (b : Byte) : State := (State.reset.setV x a).setV y b

/-- E1, F1 -/
theorem test_jp : (after State.reset 0x1234).pc = 0x234 := by decide
/-- F3 -/
theorem test_call :
    (after State.reset 0x2300).pc = 0x300 ∧ (after State.reset 0x2300).sp = 1 ∧
    (after State.reset 0x2300).stack[0] = 0x202 := by decide
/-- F5 -/
theorem test_call_overflow :
    (after { State.reset with sp := 16 } 0x2300).pc = 0x202 ∧
    (after { State.reset with sp := 16 } 0x2300).result = ⟨.stackOverflow, 0x200, 0x2300⟩ := by decide
/-- F6 -/
theorem test_ret :
    (after { State.reset with sp := 2, stack := State.reset.stack.set 1 0x30A } 0x00EE).pc = 0x30A ∧
    (after { State.reset with sp := 2, stack := State.reset.stack.set 1 0x30A } 0x00EE).sp = 1 := by decide
/-- F7 -/
theorem test_ret_underflow :
    (after State.reset 0x00EE).pc = 0x202 ∧ (after State.reset 0x00EE).result = ⟨.stackUnderflow, 0x200, 0x00EE⟩ := by
  decide
/-- F9 -/
theorem test_jpv0 : (after (State.reset.setV 0 0xFF) 0xBFFF).pc = 0x10FE := by decide

/-- S1, S2 -/
theorem test_sei :
    (after (State.reset.setV 0xA 0x42) 0x3A42).pc = 0x204 ∧ (after (State.reset.setV 0xA 0x43) 0x3A42).pc = 0x202 := by
  decide
/-- S3, S4 -/
theorem test_snei :
    (after (State.reset.setV 0xA 0x42) 0x4A42).pc = 0x202 ∧ (after (State.reset.setV 0xA 0x43) 0x4A42).pc = 0x204 := by
  decide
/-- S5, S6 -/
theorem test_ser : (after (regs2 1 7 2 7) 0x5120).pc = 0x204 ∧ (after (regs2 1 7 2 8) 0x5120).pc = 0x202 := by decide
/-- S8, S9 -/
theorem test_sner : (after (regs2 1 7 2 7) 0x9120).pc = 0x202 ∧ (after (regs2 1 7 2 8) 0x9120).pc = 0x204 := by decide
/-- S12, S13 -/
theorem test_skp :
    (after ((State.reset.setV 5 0x0A).setKeys 0x0800) 0xE59E).pc = 0x202 ∧
    (after ((State.reset.setV 5 0xFA).setKeys 0x0400) 0xE59E).pc = 0x204 := by decide
/-- S14, S15 -/
theorem test_sknp :
    (after ((State.reset.setV 5 0x0A).setKeys 0x0400) 0xE5A1).pc = 0x202 ∧
    (after (State.reset.setV 5 0x0A) 0xE5A1).pc = 0x204 := by decide

/-- A1 -/
theorem test_ldi : (after State.reset 0x6FAB).getVF = 0xAB := by decide
/-- A2 -/
theorem test_addi :
    (after (regs2 0xA 0xFF 0xF 7) 0x7A01).getV 0xA = 0 ∧ (after (regs2 0xA 0xFF 0xF 7) 0x7A01).getVF = 7 := by decide
/-- A5 -/
theorem test_mov : (after (regs2 1 1 2 0x99) 0x8120).getV 1 = 0x99 := by decide
/-- A6, A7, A8 -/
theorem test_or : (after (regs2 1 0xF0 2 0x0F) 0x8121).getV 1 = 0xFF := by decide
theorem test_and : (after (regs2 1 0xF0 2 0x3C) 0x8122).getV 1 = 0x30 := by decide
theorem test_xor : (after (regs2 1 0xF0 2 0x3C) 0x8123).getV 1 = 0xCC := by decide
/-- A10: a sum of 255 does not exceed 255 -/
theorem test_add_no_carry :
    (after (regs2 0 0xFE 1 1) 0x8014).getV 0 = 0xFF ∧ (after (regs2 0 0xFE 1 1) 0x8014).getVF = 0 := by decide
/-- A12: the flag stands, the sum is lost -/
theorem test_add_into_vf : (after (regs2 0xF 0xF0 1 0x20) 0x8F14).getVF = 1 := by decide
/-- A17 -/
theorem test_sub :
    (after (regs2 0 5 1 7) 0x8015).getV 0 = 0xFE ∧ (after (regs2 0 5 1 7) 0x8015).getVF = 0 := by decide
/-- A18: equal operands do not borrow -/
theorem test_sub_equal : (after (regs2 0 5 1 5) 0x8015).getVF = 1 := by decide
/-- A21 -/
theorem test_shr :
    (after (regs2 0 5 1 0xFF) 0x8016).getV 0 = 2 ∧ (after (regs2 0 5 1 0xFF) 0x8016).getVF = 1 ∧
    (after (regs2 0 5 1 0xFF) 0x8016).getV 1 = 0xFF := by decide
/-- A24: the shifted value stands, the flag is overwritten -/
theorem test_shr_vf : (after (State.reset.setV 0xF 5) 0x8F16).getVF = 2 := by decide
/-- A25: the destination is `V[y]` -/
theorem test_suby :
    (after (regs2 0 5 1 7) 0x8017).getV 1 = 2 ∧ (after (regs2 0 5 1 7) 0x8017).getV 0 = 5 ∧
    (after (regs2 0 5 1 7) 0x8017).getVF = 1 := by decide
/-- A28 -/
theorem test_suby_vf : (after (regs2 0 3 0xF 5) 0x80F7).getVF = 1 := by decide
/-- A31 -/
theorem test_shl :
    (after (regs2 0 0x81 1 0xFF) 0x801E).getV 0 = 2 ∧ (after (regs2 0 0x81 1 0xFF) 0x801E).getVF = 1 := by decide
/-- A33 -/
theorem test_shl_vf : (after (State.reset.setV 0xF 0x81) 0x8F1E).getVF = 2 := by decide
/-- A35 -/
theorem test_rnd : (after { State.reset with rand := ⟨[0xA7], 0⟩ } 0xC30F).getV 3 = 7 := by decide
/-- A36: one byte is consumed although the mask is 0 -/
theorem test_rnd_consumes : (after { State.reset with rand := ⟨[0xA7, 0x11], 0⟩ } 0xC300).rand = ⟨[0x11], 1⟩ := by decide

/-- M1 -/
theorem test_ldix : (after State.reset 0xAFFF).index = 0xFFF := by decide
/-- M3 -/
theorem test_addix :
    (after ((regs2 2 2 0xF 9).setIndex 0xFFF) 0xF21E).index = 1 ∧
    (after ((regs2 2 2 0xF 9).setIndex 0xFFF) 0xF21E).getVF = 9 := by decide
/-- M7, M8 -/
theorem test_font :
    (after (State.reset.setV 3 0x0F) 0xF329).index = 0x09B ∧ (after (State.reset.setV 3 0x1A) 0xF329).index = 0x082 := by
  decide
/-- M16 -/
theorem test_bcd :
    (after ((State.reset.setV 4 0x7B).setIndex 0xFFD) 0xF433).memRead 0xFFD = 1 ∧
    (after ((State.reset.setV 4 0x7B).setIndex 0xFFD) 0xF433).memRead 0xFFE = 2 ∧
    (after ((State.reset.setV 4 0x7B).setIndex 0xFFD) 0xF433).memRead 0xFFF = 3 := by decide
/-- M17 -/
theorem test_bcd_out_of_range :
    (after ((State.reset.setV 4 0x7B).setIndex 0xFFE) 0xF433).result = ⟨.memoryAddressOutOfRange .data, 0x200, 0xF433⟩ ∧
    (after ((State.reset.setV 4 0x7B).setIndex 0xFFE) 0xF433).memRead 0xFFE = 0 := by decide
/-- M18: only `V[0]` is stored -/
theorem test_stm :
    (after ((regs2 0 0x10 1 0x11).setIndex 0x400) 0xF055).memRead 0x400 = 0x10 ∧
    (after ((regs2 0 0x10 1 0x11).setIndex 0x400) 0xF055).memRead 0x401 = 0 := by decide
/-- M22 -/
theorem test_stm_out_of_range :
    (after ((regs2 0 0x10 1 0x11).setIndex 0xFF1) 0xFF55).memRead 0xFF1 = 0 ∧
    (after ((regs2 0 0x10 1 0x11).setIndex 0xFF1) 0xFF55).pc = 0x202 := by decide
/-- M24 -/
theorem test_ldm :
    (after ((State.reset.setV 3 0x33).setIndex 0x500 |>.setMem [(0x500, 0xAA), (0x501, 0xBB), (0x502, 0xCC), (0x503, 0xDD)])
      0xF265).v.toList.take 4 = [0xAA, 0xBB, 0xCC, 0x33] := by decide
/-- M26 -/
theorem test_ldm_out_of_range :
    (after (((regs2 0 1 1 2).setIndex 0xFFF).setMem [(0xFFF, 0x77)]) 0xF165).getV 0 = 1 := by decide

/-- G10 -/
theorem test_cls :
    (after { State.reset with fb := State.reset.fb.toggle 5 5 } 0x00E0).fb.pixel 5 5 = false := by decide

/-- The state of vector G4: a two-row sprite FF 81 at 0x300, drawn at (60, 31). -/
def wrapState : State := ((regs2 1 0x3C 2 0x1F).setIndex 0x300).setMem [(0x300, 0xFF), (0x301, 0x81)]

/-- G4: row 31 holds columns 60 to 63 and 0 to 3, row 0 holds columns 60 and 3. -/
theorem test_drw_wraps :
    (after wrapState 0xD122).fb[31] = 0xF00000000000000F ∧ (after wrapState 0xD122).fb[0] = 0x1000000000000008 ∧
    (after wrapState 0xD122).getVF = 0 := by decide

/-- The state of the example of R175, with pixel (0,0) already on. -/
def collideState : State :=
  { (State.reset.setIndex 0x300).setMem [(0x300, 0xF0)] with fb := State.reset.fb.toggle 0 0 }

/-- R175: an on pixel that goes off is a collision. -/
theorem test_drw_collision :
    (after collideState 0xD011).getVF = 1 ∧ (after collideState 0xD011).fb[0] = 0xE := by decide

/-- T1 -/
theorem test_lddt : (after (State.reset.setDT 0x3C) 0xF207).getV 2 = 0x3C := by decide
/-- T7 -/
theorem test_wkey_waits :
    (after State.reset 0xF30A).pc = 0x200 ∧ (after State.reset 0xF30A).result = ⟨.waitKey, 0x200, 0xF30A⟩ := by decide
/-- T8: keys 7 and 9 down, the harness's choice the second of them -/
theorem test_wkey_chooses :
    (after { State.reset with keys := 0x0280, keyDraws := ⟨[1], 0⟩ } 0xF30A).getV 3 = 9 ∧
    (after { State.reset with keys := 0x0280, keyDraws := ⟨[1], 0⟩ } 0xF30A).pc = 0x202 := by decide
/-- T2 -/
theorem test_stdt : (after (State.reset.setV 1 0x3C) 0xF115).dt = 0x3C := by decide
theorem test_stst : (after (State.reset.setV 1 0x3C) 0xF118).st = 0x3C := by decide
/-- T5, T6 -/
theorem test_tick :
    State.reset.tick = State.reset ∧ ((State.reset.setDT 0xFF).setST 2).tick = (State.reset.setDT 0xFE).setST 1 := by decide

/-- R37, R200: the numbers of the codes and of the kinds. -/
theorem test_record_numbers :
    [StepCode.ok, .waitKey, .unknownInstruction, .stackOverflow, .stackUnderflow, .memoryAddressOutOfRange .fetch,
      .memoryAddressOutOfRange .data].map StepCode.number = [0, 1, 2, 3, 4, 5, 5] ∧
    StepCode.kindBit (.memoryAddressOutOfRange .fetch) = 0 ∧ StepCode.kindBit (.memoryAddressOutOfRange .data) = 1 := by
  decide

/-- R42: a gap with a tick between two writes of the timer port, seen by a step. -/
theorem test_timer_port :
    (after { State.reset with schedule := [[.setDelayTimer 7, .tick, .setSoundTimer 9]] } 0xF107).getV 1 = 6 ∧
    (after { State.reset with schedule := [[.setDelayTimer 7, .tick, .setSoundTimer 9]] } 0xF107).st = 9 := by decide

/-- R44, R243: a gap that ends in a reset, which clears CORE and leaves the keys. -/
theorem test_reset_event :
    (after { State.reset with pc := 0x300, schedule := [[.setKeys 2, .setDelayTimer 7, .reset]] } 0xF107).pc = 0x202 ∧
    (after { State.reset with pc := 0x300, schedule := [[.setKeys 2, .setDelayTimer 7, .reset]] } 0xF107).dt = 0 ∧
    (after { State.reset with pc := 0x300, schedule := [[.setKeys 2, .setDelayTimer 7, .reset]] } 0xF107).keys = 2 := by
  decide

/-- X2 -/
theorem test_fetch_refused :
    (match step { State.reset with pc := 0xFFF } with
      | .next t => decide (t.pc = 0xFFF ∧ t.result = ⟨.memoryAddressOutOfRange .fetch, 0xFFF, 0⟩)
      | _ => false) = true := by decide

/-- A tick and a key press that fall before the step are seen by it (R13). -/
theorem test_schedule :
    (after { State.reset with dt := 3, schedule := [[.tick, .setKeys 0x20]] } 0xF107).getV 1 = 2 ∧
    (after { State.reset with dt := 3, schedule := [[.tick, .setKeys 0x20]] } 0xF10A).getV 1 = 5 := by decide

/-- R168, R244, R245: the loader puts the font at `FONT_BASE` and a program at 0x200, and refuses one that is too long. -/
theorem test_loader :
    State.reset.loadFont.memRead 0x050 = 0xF0 ∧ State.reset.loadFont.memRead 0x09F = 0x80 ∧
    (State.reset.loadProgram [0x12, 0x00]).map (fun s => s.fetchWord) = some 0x1200 ∧
    State.reset.loadProgram (List.replicate 3585 1) = none := by
  refine ⟨by decide, by decide, by decide, if_neg (by rw [List.length_replicate]; decide)⟩

/-! ### Witnesses: inputs that meet the statements' hypotheses -/

open Spec

/-- The `Words` clauses: under each mask, for each pattern a word. -/
theorem witness_words_one_nibble :
    ([0x1FFF, 0x2FFF, 0x3FFF, 0x4FFF, 0x6FFF, 0x7FFF, 0xAFFF, 0xBFFF, 0xCFFF, 0xDFFF].map (fun w : Word => w &&& 0xF000))
      = [0x1000, 0x2000, 0x3000, 0x4000, 0x6000, 0x7000, 0xA000, 0xB000, 0xC000, 0xD000] := by decide
theorem witness_words_two_nibbles :
    ([0x5FF0, 0x8FF0, 0x8FF1, 0x8FF2, 0x8FF3, 0x8FF4, 0x8FF5, 0x8FF6, 0x8FF7, 0x8FFE, 0x9FF0].map
      (fun w : Word => w &&& 0xF00F))
      = [0x5000, 0x8000, 0x8001, 0x8002, 0x8003, 0x8004, 0x8005, 0x8006, 0x8007, 0x800E, 0x9000] := by decide
theorem witness_words_three_nibbles :
    ([0xEF9E, 0xEFA1, 0xFF07, 0xFF0A, 0xFF15, 0xFF18, 0xFF1E, 0xFF29, 0xFF33, 0xFF55, 0xFF65].map
      (fun w : Word => w &&& 0xF0FF))
      = [0xE09E, 0xE0A1, 0xF007, 0xF00A, 0xF015, 0xF018, 0xF01E, 0xF029, 0xF033, 0xF055, 0xF065] := by decide
theorem witness_words_all_nibbles :
    ([0x00E0, 0x00EE].map (fun w : Word => w &&& 0xFFFF)) = [0x00E0, 0x00EE] := by decide

/-- EncodeOfDecode, WithFetchWordRunsTheWord; DecodeFollowsOpcodeMap. -/
theorem witness_decode : decode 0x8FF4 = some (.add 0xF 0xF) ∧ (opcodeMap.head?.isSome ∧ opcodeMap.length = 34) := by
  decide

/-- The flag statements: a register that is VF and one that is not. -/
theorem witness_flag_operands : (0xE : RegIx) ≠ 0xF ∧ (0x0 : RegIx) ≠ 0xE := by decide

/-- RandomByteIsMaskedAndConsumed: a seeded source. -/
theorem witness_random : State.randByte { State.reset with rand := ⟨[0xA7, 0x11], 0⟩ } = 0xA7 := by decide

/-- CallPushesReturnAddress: the last free slot, and none. -/
theorem witness_call :
    (State.sp { State.reset with sp := 15 }).val ≤ 15 ∧ (State.sp { State.reset with sp := 16 }).val = 16 := by decide

/-- ReturnPopsIntoPc: one slot held, all held, none held. -/
theorem witness_return :
    1 ≤ (State.sp { State.reset with sp := 1 }).val ∧ 1 ≤ (State.sp { State.reset with sp := 16 }).val ∧
    State.reset.sp.val = 0 := by decide

/-- A call at 0x200 of 0x300, where a return stands, with `SP` at `k`. -/
def callState (k : Fin 17) : State :=
  { State.reset with mem := [(0x200, 0x23), (0x301, 0xEE)], sp := k }

/-- CallThenReturnRoundTrip, with an empty stack and with one free slot. -/
theorem witness_call_then_return : ∀ k ∈ [(0 : Fin 17), 15],
    (callState k).canFetch = true ∧ decode (callState k).fetchWord = some (.call 0x300) ∧ (callState k).sp.val ≤ 15 ∧
    ((callState k).setPc ((0x300 : Addr).setWidth 16)).canFetch = true ∧
    ((callState k).setPc ((0x300 : Addr).setWidth 16)).fetchWord = 0x00EE := by decide

/-- BcdStoresThreeDigits: the last range that fits, the first that does not. -/
theorem witness_bcd :
    (State.reset.setIndex 0xFFD).index.toNat + 3 ≤ 0x1000 ∧ (State.reset.setIndex 0xFFE).index.toNat + 3 > 0x1000 := by
  decide

/-- StoreRegistersAscending, LoadRegistersAscending: the same, for one register and for all sixteen. -/
theorem witness_transfer :
    (State.reset.setIndex 0xFFF).index.toNat + (0 : RegIx).toNat + 1 ≤ 0x1000 ∧
    (State.reset.setIndex 0xFF0).index.toNat + (15 : RegIx).toNat + 1 ≤ 0x1000 ∧
    (State.reset.setIndex 0xFF1).index.toNat + (15 : RegIx).toNat + 1 > 0x1000 ∧ (15 : RegIx).toNat ≤ (15 : RegIx).toNat ∧
    (0 : RegIx).toNat < (1 : RegIx).toNat := by decide

/-- StoreThenLoadRestoresRegisters: all registers stored, then cleared. -/
theorem witness_store_then_load :
    ∃ t u : State, exec (.stm 0xF) (State.reset.setIndex 0xFF0) = .next t ∧ u.index = t.index ∧ u.mem = t.mem ∧
      u.dt ≠ t.dt := ⟨_, State.setDT _ 1, rfl, rfl, rfl, by decide⟩

/-- DrawXorsSpriteAndReportsCollision: the last range that fits, the first that does not, a range of none. -/
theorem witness_draw :
    (State.reset.setIndex 0xFF1).index.toNat + (15 : Nibble).toNat ≤ 0x1000 ∧
    (State.reset.setIndex 0xFF2).index.toNat + (15 : Nibble).toNat > 0x1000 ∧
    (State.reset.setIndex 0xFFF).index.toNat + (0 : Nibble).toNat ≤ 0x1000 := by decide

/-- DrawTwiceRestoresDisplay. -/
theorem witness_draw_twice :
    (1 : RegIx) ≠ 0xF ∧ (2 : RegIx) ≠ 0xF ∧ wrapState.index.toNat + (2 : Nibble).toNat ≤ 0x1000 ∧
    ∃ t u, exec (.drw 1 2 2) wrapState = .next t ∧ exec (.drw 1 2 2) t = .next u :=
  ⟨by decide, by decide, by decide, _, _, rfl, rfl⟩

/-- WaitKeyPollsTheKeypad, EveryPressedKeyCanBeReported: no key, the first and the last. -/
theorem witness_keys :
    State.reset.keys = 0 ∧ (State.reset.setKeys 0x8001).keys ≠ 0 ∧
    (State.reset.setKeys 0x8001).keys.getLsbD (0 : KeyId).toNat = true ∧
    (State.reset.setKeys 0x8001).keys.getLsbD (0xF : KeyId).toNat = true := by decide

/-- MemoryWriteChangesOneCell. -/
theorem witness_memory : (0xFFF : Addr) ≠ 0x000 := by decide

/-- The last word of Memory is the instruction at `pc`. -/
def lastWord : State := { State.reset with pc := 0xFFE, mem := [(0xFFE, 0x00), (0xFFF, 0xE0)] }

/-- FetchIsBigEndian, StepIsFetchAdvanceExecute, WithFetchWordRunsTheWord. -/
theorem witness_fetch :
    lastWord.canFetch = true ∧ lastWord.pc.toNat ≤ 0xFFE ∧ decode lastWord.fetchWord = some .cls ∧ lastWord.schedule = [] ∧
    (State.schedule { lastWord with schedule := [[.tick], []] }) = [.tick] :: [[]] := by decide

/-- RefusedFetchChangesNothing: the first address and the last. -/
theorem witness_refused_fetch :
    (State.reset.setPc 0xFFF).pc.toNat > 0xFFE ∧ (State.reset.setPc 0xFFFF).pc.toNat > 0xFFE := by decide

/-- UnrecognisedWordIsReportedNoOp. -/
theorem witness_unrecognised :
    (State.reset.setPc 0xFFE).pc.toNat ≤ 0xFFE ∧ decode (State.reset.setPc 0xFFE).fetchWord = none := by decide

/-- StepKeepsInv, FirstConditionIsKept: a step from reset, whose word is unrecognised, and the step after it. -/
theorem witness_inv_and_condition :
    State.reset.Inv ∧ State.reset.firstCondition = none ∧
    ∃ t u, step State.reset = .next t ∧ t.firstCondition = some t.result ∧ step t = .next u :=
  ⟨⟨by decide, by decide, by intro j h; simp [State.reset]⟩, rfl, _, _, rfl, by decide, rfl⟩

/-- ConditionsArePreciseAndCaused. -/
theorem witness_conditions :
    (∃ t, exec (.call 0x300) (callState 16) = .next t ∧ t.result.code.isCondition = true) ∧
    (∃ t, exec .ret State.reset = .next t ∧ t.result.code.isCondition = true) ∧
    (∃ t, exec (.stm 0xF) (State.reset.setIndex 0xFF1) = .next t ∧ t.result.code.isCondition = true) :=
  ⟨⟨_, rfl, rfl⟩, ⟨_, rfl, rfl⟩, ⟨_, rfl, rfl⟩⟩

/-- TimersAreOwnedAndStUnread: one that writes `ST` and one that does not. -/
theorem witness_timers :
    (∃ t, exec (.stst 1) (State.reset.setV 1 0x3C) = .next t ∧ t.st ≠ State.reset.st) ∧
    (∃ t, exec (.stdt 1) (State.reset.setV 1 0x3C) = .next t ∧ t.dt ≠ State.reset.dt) ∧
    ¬ ∃ x, Instr.stdt 1 = .stst x :=
  ⟨⟨_, rfl, by decide⟩, ⟨_, rfl, by decide⟩, by simp⟩

/-- The rules of the whole machine: a change of each part they speak about. -/
theorem witness_whole_machine_rules :
    (∃ t, exec (.ldix 0xFFF) State.reset = .next t ∧ t.index ≠ State.reset.index) ∧
    (∃ t, exec (.call 0x300) (callState 15) = .next t ∧ t.stack[15] ≠ (callState 15).stack[15]) ∧
    (∃ t, exec (.bcd 0) ((State.reset.setV 0 0xFF).setIndex 0xFFD) = .next t ∧
      t.memRead 0xFFF ≠ State.reset.memRead 0xFFF) ∧
    (∃ t, exec (.add 0 1) (regs2 0 0xFF 1 2) = .next t ∧ t.getV 0 ≠ 0xFF ∧ t.getV 0xF ≠ State.reset.getV 0xF) ∧
    (∃ t, exec (.drw 1 2 2) wrapState = .next t ∧ t.fb ≠ wrapState.fb) ∧
    (∃ t, exec (.jpv0 0xFFF) (State.reset.setV 0 0xFF) = .next t ∧ t.pc = 0x10FE) :=
  ⟨⟨_, rfl, by decide⟩, ⟨_, rfl, by decide⟩, ⟨_, rfl, by decide⟩, ⟨_, rfl, by decide, by decide⟩, ⟨_, rfl, by decide⟩,
    ⟨_, rfl, by decide⟩⟩

/-- PcAfterEachInstruction: each row that has two cases, in both of them. -/
theorem witness_pc_rows :
    (∃ t, exec (.call 0x300) (callState 15) = .next t ∧ t.pc = 0x300) ∧
    (∃ t, exec (.call 0x300) (callState 16) = .next t ∧ t.pc = 0x200) ∧
    (∃ t, exec .ret (callState 1) = .next t ∧ t.pc = 0x000) ∧ (∃ t, exec .ret (callState 0) = .next t ∧ t.pc = 0x200) ∧
    (∃ t, exec (.sei 0 0) State.reset = .next t ∧ t.pc = 0x202) ∧
    (∃ t, exec (.snei 0 0) State.reset = .next t ∧ t.pc = 0x200) ∧
    (∃ t, exec (.skp 0) (State.reset.setKeys 1) = .next t ∧ t.pc = 0x202) ∧
    (∃ t, exec (.sknp 0) (State.reset.setKeys 1) = .next t ∧ t.pc = 0x200) ∧
    (∃ t, exec (.wkey 0) State.reset = .next t ∧ t.pc = 0x1FE) ∧
    (∃ t, exec (.wkey 0) (State.reset.setKeys 1) = .next t ∧ t.pc = 0x200) :=
  ⟨⟨_, rfl, by decide⟩, ⟨_, rfl, by decide⟩, ⟨_, rfl, by decide⟩, ⟨_, rfl, by decide⟩, ⟨_, rfl, by decide⟩,
    ⟨_, rfl, by decide⟩, ⟨_, rfl, by decide⟩, ⟨_, rfl, by decide⟩, ⟨_, rfl, by decide⟩, ⟨_, rfl, by decide⟩⟩

/-- StoredBytesAreFetchedNext: two registers stored over the last two bytes of Memory, where `pc` is. -/
theorem witness_stored_bytes :
    1 ≤ (1 : RegIx).toNat ∧ (lastWord.setIndex 0xFFE).index.toNat + (1 : RegIx).toNat + 1 ≤ 0x1000 ∧
    (lastWord.setIndex 0xFFE).pc.toNat = (lastWord.setIndex 0xFFE).index.toNat ∧
    ∃ t, exec (.stm 1) (lastWord.setIndex 0xFFE) = .next t := ⟨by decide, by decide, by decide, _, rfl⟩

/-- FinishedStaysFinished: a jump at 0x200 to itself. -/
theorem witness_finished : (State.reset.setMem [(0x200, 0x12)]).finished ∧ State.reset.schedule = [] :=
  ⟨⟨by decide, 0x200, by decide, by decide⟩, rfl⟩

end Sys2Proof.Tests
end

namespace Sys2Proof.Machine

open Sys2Proof.Spec

/-! ### What an instruction writes, by the part of the state -/

/-- The states the execute phase of an instruction can lead to from `s`, told apart by the part of the state it writes
(10_state.md R22, 20_memory.md R62). What goes into a register or into `pc` is left to `Effect` and `PcRow`: this is the
view for rules that say who writes a part at all. -/
inductive Writes (s : State) : Instr → State → Prop where
  | nothing (i : Instr) (c : StepCode) : Writes s i (s.report c)
  | pc (i : Instr) (p : Word) (c : StepCode) : Writes s i ((s.setPc p).report c)
  | regs (i : Instr) (v : Vector Byte 16) : Writes s i (State.report { s with v := v } .ok)
  | random (x : RegIx) (nn b : Byte) : Writes s (.rnd x nn) ((s.consumeRand.setV x b).report .ok)
  | chosenKey (x : RegIx) (b : Byte) : Writes s (.wkey x) ((s.consumeKeyDraw.setV x b).report .ok)
  | clear : Writes s .cls ((s.setFb Framebuffer.clear).report .ok)
  | draw (x y : RegIx) (n : Nibble) (fb : Framebuffer) (b : Byte) :
    Writes s (.drw x y n) (((s.setFb fb).setV 0xF b).report .ok)
  | index (i : Instr) (hi : (∃ nnn, i = .ldix nnn) ∨ (∃ x, i = .addix x) ∨ ∃ x, i = .font x) (a : Addr) :
    Writes s i ((s.setIndex a).report .ok)
  | mem (i : Instr) (hi : (∃ x, i = .bcd x) ∨ ∃ x, i = .stm x) (bs : List Byte) :
    Writes s i ((s.setMem (s.mem.writeBytes s.index bs)).report .ok)
  | delayTimer (x : RegIx) : Writes s (.stdt x) ((s.setDT (s.getV x)).report .ok)
  | soundTimer (x : RegIx) : Writes s (.stst x) ((s.setST (s.getV x)).report .ok)
  | push (nnn : Addr) (h : s.sp.val < 16) :
    Writes s (.call nnn) (((s.push s.pc h).setPc (zextAddr nnn)).report .ok)
  | pop (h : 0 < s.sp.val) : Writes s .ret ((s.drop.setPc (s.top h)).report .ok)

/-- Whatever `exec` answers has been written in one of these ways. -/
theorem exec_writes {i : Instr} {s t : State} (h : exec i s = .next t) : Writes s i t := by
  have e := exec_effect h
  cases i
  case ret =>
    obtain ⟨h0, rfl⟩ | ⟨-, rfl⟩ := e
    · exact .pop h0
    · exact .nothing ..
  case call nnn =>
    obtain ⟨h16, rfl⟩ | ⟨-, rfl⟩ := e
    · exact .push nnn h16
    · exact .nothing ..
  case drw x y n =>
    obtain ⟨-, rfl⟩ | ⟨-, rfl⟩ := e
    · exact .draw ..
    · exact .nothing ..
  case bcd x =>
    obtain ⟨-, rfl⟩ | ⟨-, rfl⟩ := e
    · exact .mem _ (.inl ⟨x, rfl⟩) _
    · exact .nothing ..
  case stm x =>
    obtain ⟨-, rfl⟩ | ⟨-, rfl⟩ := e
    · exact .mem _ (.inr ⟨x, rfl⟩) _
    · exact .nothing ..
  case ldm x =>
    obtain ⟨-, v, rfl, -⟩ | ⟨-, rfl⟩ := e
    · exact .regs ..
    · exact .nothing ..
  case wkey x =>
    obtain ⟨-, rfl⟩ | ⟨k, -, rfl | rfl⟩ := e
    · exact .pc ..
    · exact .regs ..
    · exact .chosenKey ..
  case cls => exact e ▸ .clear
  case rnd x nn => exact e ▸ .random ..
  case stdt x => exact e ▸ .delayTimer x
  case stst x => exact e ▸ .soundTimer x
  case ldix nnn => exact e ▸ .index _ (.inl ⟨nnn, rfl⟩) _
  case addix x => exact e ▸ .index _ (.inr (.inl ⟨x, rfl⟩)) _
  case font x => exact e ▸ .index _ (.inr (.inr ⟨x, rfl⟩)) _
  case jp | jpv0 | sei | snei | ser | sner | skp | sknp => exact e ▸ .pc ..
  all_goals exact e ▸ .regs ..

/-- A stack slot after an instruction: as before, or the slot `SP` with the return address a CALL has stored there
(10_state.md R30, decision D13). -/
theorem exec_slot {i : Instr} {s t : State} (h : exec i s = .next t) (j : Nat) (hj : j < 16) :
    t.stack[j] = s.stack[j] ∨ ((∃ nnn, i = .call nnn) ∧ j = s.sp.val ∧ t.stack[j] = s.pc) := by
  cases exec_writes h with
  | push nnn hsp =>
    by_cases e : s.sp.val = j
    · exact .inr ⟨⟨nnn, rfl⟩, e.symm, by simp [e]⟩
    · exact .inl (by simp [e])
  | _ => exact .inl rfl

/-- `SP` after an instruction (10_state.md R31). -/
theorem exec_sp {i : Instr} {s t : State} (h : exec i s = .next t) :
    t.sp = s.sp ∨ ((∃ nnn, i = .call nnn) ∧ t.sp.val = s.sp.val + 1) ∨ (i = .ret ∧ t.sp.val + 1 = s.sp.val) := by
  cases exec_writes h with
  | push nnn hsp => exact .inr (.inl ⟨⟨nnn, rfl⟩, rfl⟩)
  | pop hsp => exact .inr (.inr ⟨rfl, Nat.succ_pred_eq_of_pos hsp⟩)
  | _ => exact .inl rfl

/-! ### A step always answers -/

/-- The range-checked instructions answer, whichever way the check goes. -/
theorem checked_returns {p : Prop} [Decidable p] {c : StepCode} {s u : State} :
    ∃ t, (if p then complete u else raise c s) = .next t := by
  split <;> exact ⟨_, rfl⟩

/-- CALL and RET answer, whichever way the check of the stack goes. -/
theorem stackChecked_returns {p : Prop} [Decidable p] {c : StepCode} {s : State} {u : p → State} :
    ∃ t, (if h : p then complete (u h) else raise c s) = .next t := by
  split <;> exact ⟨_, rfl⟩

theorem execWkey_returns (x : RegIx) (s : State) : ∃ t, execWkey x s = .next t := by
  unfold execWkey
  split <;> exact ⟨_, rfl⟩

/-- No arm of `exec` faults or is refused (10_state.md R36). -/
theorem exec_returns (i : Instr) (s : State) : ∃ t, exec i s = .next t := by
  cases i
  case ret | call => exact stackChecked_returns
  case drw | bcd | stm | ldm => exact checked_returns
  case wkey x => exact execWkey_returns x s
  all_goals exact ⟨_, rfl⟩

/-- The three ways CORE's step transaction can go (10_state.md R24, R36). -/
theorem coreStep_cases (s : State) :
    (s.canFetch = false ∧ coreStep s = .next s.fetchRefused) ∨
    (s.canFetch = true ∧ decode s.fetchWord = none ∧
      coreStep s = .next ((s.beginExecute s.fetchWord).report .unknownInstruction)) ∨
    (s.canFetch = true ∧ ∃ i, decode s.fetchWord = some i ∧ coreStep s = exec i (s.beginExecute s.fetchWord)) := by
  cases hf : s.canFetch with
  | false => exact .inl ⟨rfl, coreStep_refused hf⟩
  | true =>
    cases hd : decode s.fetchWord with
    | none => exact .inr (.inl ⟨rfl, rfl, coreStep_unrecognised hf hd⟩)
    | some i => exact .inr (.inr ⟨rfl, i, rfl, coreStep_of_decode hf hd⟩)

theorem coreStep_returns (s : State) : ∃ t, coreStep s = .next t := by
  obtain ⟨-, h⟩ | ⟨-, -, h⟩ | ⟨-, i, -, h⟩ := coreStep_cases s
  · exact ⟨_, h⟩
  · exact ⟨_, h⟩
  · exact h ▸ exec_returns i _

/-! ### The sound timer is not read (10_state.md R32) -/

theorem complete_setST {s t : State} (b : Byte) (h : complete s = .next t) :
    complete (s.setST b) = .next (t.setST b) := by
  obtain rfl := eq_of_complete h; rfl

theorem raise_setST {c : StepCode} {s t : State} (b : Byte) (h : raise c s = .next t) :
    raise c (s.setST b) = .next (t.setST b) := by
  obtain rfl := eq_of_raise h; rfl

/-- The range-checked instructions take no notice of `ST`, whichever way the check goes. -/
theorem checked_setST {p : Prop} [Decidable p] {c : StepCode} {s t u : State} (b : Byte)
    (h : (if p then complete u else raise c s) = .next t) :
    (if p then complete (u.setST b) else raise c (s.setST b)) = .next (t.setST b) := by
  split at h
  · exact (if_pos ‹p›).trans (complete_setST b h)
  · exact (if_neg ‹¬p›).trans (raise_setST b h)

/-- CALL and RET: the same for a state that is built from the check's proof. -/
theorem stackChecked_setST {p : Prop} [Decidable p] {c : StepCode} {s t : State} {u : p → State} (b : Byte)
    (h : (if hp : p then complete (u hp) else raise c s) = .next t) :
    (if hp : p then complete ((u hp).setST b) else raise c (s.setST b)) = .next (t.setST b) := by
  split at h
  · exact (dif_pos ‹p›).trans (complete_setST b h)
  · exact (dif_neg ‹¬p›).trans (raise_setST b h)

theorem State.skipIf_setST (s : State) (b : Byte) (taken : Bool) :
    (s.setST b).skipIf taken = (s.skipIf taken).setST b := by
  cases taken <;> rfl

theorem State.loadRegs_setST (s : State) (b : Byte) (k : Nat) :
    (s.setST b).loadRegs k = (s.loadRegs k).setST b :=
  List.foldl_hom (State.setST · b) (fun _ _ => rfl)

theorem State.keyAny_setST (s : State) (b : Byte) :
    (s.setST b).keyAny = s.keyAny.map (fun p => (p.1, p.2.setST b)) := by
  unfold State.keyAny
  rw [State.setST_keys]
  cases pressedKeys s.keys with
  | nil => rfl
  | cons k ks => cases ks <;> rfl

theorem execWkey_setST {x : RegIx} {s t : State} (b : Byte) (h : execWkey x s = .next t) :
    execWkey x (s.setST b) = .next (t.setST b) := by
  unfold execWkey at h ⊢
  rw [State.keyAny_setST]
  cases hk : s.keyAny with
  | none =>
    rw [hk] at h
    obtain rfl := Host.Outcome.next.inj h
    rfl
  | some p =>
    rw [hk] at h
    exact complete_setST b h

/-- Every instruction but STST does the same whatever `ST` holds, and leaves `ST` as it was given. -/
theorem exec_setST {i : Instr} {s t : State} (b : Byte) (hi : ¬ ∃ x, i = .stst x) (h : exec i s = .next t) :
    exec i (s.setST b) = .next (t.setST b) := by
  cases i
  case stst x => exact absurd ⟨x, rfl⟩ hi
  case ret | call => exact stackChecked_setST b h
  case wkey x => exact execWkey_setST b h
  case ldm x =>
    change execLdm x (s.setST b) = _
    rw [execLdm, State.loadRegs_setST]
    exact checked_setST b h
  case drw | bcd | stm => exact checked_setST b h
  case sei | snei | ser | sner | skp | sknp =>
    exact (congrArg complete (s.skipIf_setST b _)).trans (complete_setST b h)
  all_goals exact complete_setST b h

/-! ### Registers after a write -/

/-- A register that a write changed is the one written. -/
theorem State.eq_of_getV_setV_ne {s : State} {x r : RegIx} {b : Byte} (h : (s.setV x b).getV r ≠ s.getV r) :
    r = x := by
  by_contra hr
  exact h (by rw [State.getV_setV, if_neg hr])

/-- A register that two writes changed is one of the two written. -/
theorem State.eq_of_getV_setV_setV_ne {s : State} {x y r : RegIx} {b c : Byte}
    (h : ((s.setV x b).setV y c).getV r ≠ s.getV r) : r = x ∨ r = y := by
  by_cases hr : r = y
  · exact .inr hr
  · rw [State.getV_setV, if_neg hr] at h
    exact .inl (State.eq_of_getV_setV_ne h)

theorem flagByte_le_one (f : Bool) : (flagByte f).toNat ≤ 1 := by cases f <;> decide

/-- Where the flag is the last register written, VF holds it (10_state.md R21). -/
theorem State.vf_le_one_of_flag_last (s : State) (f : Bool) :
    (((s.setV 0xF (flagByte f)).report .ok).getV 0xF).toNat ≤ 1 := by
  rw [State.report_getV, State.getV_setV, if_pos rfl]
  exact flagByte_le_one f

/-- The shifts write the flag first: VF holds it unless it is the register shifted (decision D7). -/
theorem State.vf_le_one_of_flag_first (s : State) (f : Bool) {x : RegIx} (b : Byte) (hx : x ≠ 0xF) :
    ((((s.setV 0xF (flagByte f)).setV x b).report .ok).getV 0xF).toNat ≤ 1 := by
  rw [State.report_getV, State.getV_setV, if_neg hx.symm, State.getV_setV, if_pos rfl]
  exact flagByte_le_one f

/-! ### Where an instruction leaves `pc` -/

theorem toNat_zextAddr (nnn : Addr) : (zextAddr nnn).toNat = nnn.toNat := by
  have := nnn.isLt
  simp only [zextAddr, BitVec.toNat_setWidth]; omega

/-- JPV0's sum is below 0x10FF, so nothing of it is lost (decision D15). -/
theorem toNat_zextByte16_add_zextAddr (b : Byte) (nnn : Addr) :
    (zextByte16 b + zextAddr nnn).toNat = b.toNat + nnn.toNat := by
  have := nnn.isLt
  have := b.isLt
  simp only [zextByte16, BitVec.toNat_add, BitVec.toNat_setWidth, toNat_zextAddr]; omega

/-- The key a register names is the one numbered by its value modulo 16 (decision D9). -/
theorem State.keyPressed_keyIdOf (s : State) (b : Byte) :
    s.keyPressed (keyIdOf b) = s.keys.getLsbD (b.toNat % 16) := by
  simp [State.keyPressed, keyIdOf, BitVec.extractLsb'_toNat]

/-- Every instruction leaves `pc` as its row of the table says (10_state.md R27). -/
theorem exec_pcRow {i : Instr} {s t : State} (h : exec i s = .next t) : PcRow i s t := by
  have e := exec_effect h
  cases i
  case jp nnn => obtain rfl := e; exact toNat_zextAddr nnn
  case jpv0 nnn => obtain rfl := e; exact toNat_zextByte16_add_zextAddr _ nnn
  case call nnn =>
    obtain ⟨h16, rfl⟩ | ⟨h16, rfl⟩ := e
    · exact (if_pos (Nat.le_of_lt_succ h16)).mpr (toNat_zextAddr nnn)
    · exact (if_neg (by omega)).mpr rfl
  case ret =>
    obtain ⟨h0, rfl⟩ | ⟨h0, rfl⟩ := e
    · exact (dif_pos h0).mpr rfl
    · exact (dif_neg (by omega)).mpr rfl
  case sei | snei | ser | sner => obtain rfl := e; simp [PcRow, BitVec.toNat_inj]
  case skp | sknp => obtain rfl := e; simp [PcRow, State.keyPressed_keyIdOf]
  case wkey x =>
    obtain ⟨hk, rfl⟩ | ⟨k, hk, rfl | rfl⟩ := e
    · exact (if_pos hk).symm
    all_goals
      have : s.keys ≠ 0 := by rintro h0; simp [h0] at hk
      exact (if_neg this).symm
  case drw | bcd | stm => obtain ⟨-, rfl⟩ | ⟨-, rfl⟩ := e <;> rfl
  case ldm => obtain ⟨-, v, rfl, -⟩ | ⟨-, rfl⟩ := e <;> rfl
  all_goals obtain rfl := e; rfl

/-! ### The invariant -/

/-- An instruction leaves Memory in its canonical form (20_memory.md R62). -/
theorem exec_keeps_wf {i : Instr} {s t : State} (h : exec i s = .next t) (hs : s.mem.wf) : t.mem.wf := by
  cases exec_writes h with
  | mem i hi bs => exact Memory.wf_writeBytes _ _ hs
  | _ => exact hs

/-- The rows of the table of 10_state.md R27 keep `pc` at most 0x10FE, `s.pc` being `P + 2` for an address `P` that can
be fetched from (R28). -/
theorem pc_le_of_pcRow {i : Instr} {s t : State} (h : PcRow i s t) (h2 : 2 ≤ s.pc.toNat) (hpc : s.pc.toNat ≤ 0x1000)
    (hslots : ∀ (j : Nat) (hj : j < 16), (s.stack[j]'hj).toNat ≤ 0x1000) : t.pc.toNat ≤ 0x10FE := by
  cases i <;> simp only [PcRow] at h
  case jp nnn => have := nnn.isLt; omega
  case jpv0 nnn => have := nnn.isLt; have := (s.getV 0).isLt; omega
  case call nnn =>
    have := nnn.isLt
    split at h
    · omega
    · rw [h]; omega
  case ret =>
    split at h <;> rw [h]
    · exact (hslots _ _).trans (by decide)
    · omega
  case sei | snei | ser | sner | skp | sknp | wkey =>
    rw [h]
    split <;> bv_omega
  all_goals rw [h]; omega

/-- A stack slot is at most 0x1000: it is the one before, or the return address a CALL has stored (10_state.md R34). -/
theorem exec_keeps_slots {i : Instr} {s t : State} (h : exec i s = .next t) (hpc : s.pc.toNat ≤ 0x1000)
    (hs : ∀ (j : Nat) (hj : j < 16), (s.stack[j]'hj).toNat ≤ 0x1000) (j : Nat) (hj : j < 16) :
    (t.stack[j]'hj).toNat ≤ 0x1000 := by
  obtain e | ⟨-, -, e⟩ := exec_slot h j hj
  · rw [e]; exact hs j hj
  · rw [e]; exact hpc

/-- The execute phase keeps the invariant, from a state whose `pc` is two past an address that can be fetched from. -/
theorem exec_keeps_inv {i : Instr} {s t : State} (h : exec i s = .next t) (hs : s.Inv) (h2 : 2 ≤ s.pc.toNat)
    (hpc : s.pc.toNat ≤ 0x1000) : t.Inv := by
  obtain ⟨hwf, -, hslots⟩ := hs
  exact ⟨exec_keeps_wf h hwf, pc_le_of_pcRow (exec_pcRow h) h2 hpc hslots, exec_keeps_slots h hpc hslots⟩

/-- The advance of `pc` from an address that can be fetched from is not reduced (10_state.md R25, R28). -/
theorem State.toNat_beginExecute_pc {s : State} (w : Word) (h : s.canFetch = true) :
    (s.beginExecute w).pc.toNat = s.pc.toNat + 2 := by
  have := s.canFetch_iff.1 h
  rw [State.beginExecute_pc]; bv_omega

theorem State.beginExecute_inv {s : State} (w : Word) (h : s.canFetch = true) (hs : s.Inv) :
    (s.beginExecute w).Inv := by
  have hpc := State.toNat_beginExecute_pc w h
  have := s.canFetch_iff.1 h
  obtain ⟨hwf, -, hslots⟩ := hs
  exact ⟨hwf, by omega, hslots⟩

/-- CORE's step transaction keeps the invariant. -/
theorem coreStep_keeps_inv {s t : State} (h : coreStep s = .next t) (hs : s.Inv) : t.Inv := by
  obtain ⟨-, e⟩ | ⟨hf, -, e⟩ | ⟨hf, i, -, e⟩ := coreStep_cases s
  · obtain rfl := Host.Outcome.next.inj (e.symm.trans h)
    exact hs
  · obtain rfl := Host.Outcome.next.inj (e.symm.trans h)
    exact State.beginExecute_inv s.fetchWord hf hs
  · have hpc := State.toNat_beginExecute_pc s.fetchWord hf
    have := s.canFetch_iff.1 hf
    exact exec_keeps_inv (e.symm.trans h) (State.beginExecute_inv _ hf hs) (by omega) (by omega)

/-- The events of the gap keep the invariant: they leave Memory alone, and `pc` and the stack where they were or at
reset. -/
theorem State.betweenSteps_inv {s : State} (hs : s.Inv) : s.betweenSteps.Inv := by
  obtain ⟨hwf, hpc⟩ := hs
  refine ⟨s.betweenSteps_sameInside.mem.symm ▸ hwf, ?_⟩
  unfold State.pcBounded
  obtain ⟨epc, estack⟩ | ⟨epc, estack⟩ := s.betweenSteps_pc_stack <;> rw [epc, estack]
  · exact hpc
  · exact ⟨by decide, fun j hj => by simp⟩

/-! ### A word put where the next step fetches -/

/-- `s` with the two bytes of `w` at its `pc`, the high byte first (20_memory.md R66). -/
def State.storeWordAtPc (s : State) (w : Word) : State :=
  s.setMem (s.mem.writeBytes (s.pc.setWidth 12) [highByte w, lowByte w])

/-- An address that can be fetched from is carried whole by the Memory interface (10_state.md R28, R38). -/
theorem State.toNat_setWidth_pc {s : State} (h : s.canFetch = true) : (s.pc.setWidth 12).toNat = s.pc.toNat := by
  have := s.canFetch_iff.1 h
  rw [BitVec.toNat_setWidth]; omega

/-- Where the stored word's bytes lie: the high one at `pc`, the low one behind it, and every other cell as before. -/
theorem State.memRead_storeWordAtPc {s : State} (w : Word) (h : s.canFetch = true) (a : Addr) :
    (s.storeWordAtPc w).memRead a =
      if s.pc.toNat ≤ a.toNat ∧ a.toNat < s.pc.toNat + 2 then
        [highByte w, lowByte w].getD (a.toNat - s.pc.toNat) 0
      else s.memRead a := by
  have := s.canFetch_iff.1 h
  have hpc := State.toNat_setWidth_pc h
  have hlen : (s.pc.setWidth 12).toNat + [highByte w, lowByte w].length ≤ Config.memSize := by
    simp only [hpc, List.length_cons, List.length_nil, Config.memSize]; omega
  rw [State.storeWordAtPc, State.setMem_memRead, Memory.read_writeBytes _ _ _ _ hlen, hpc]
  rfl

theorem State.fetchWord_storeWordAtPc {s : State} (w : Word) (h : s.canFetch = true) :
    (s.storeWordAtPc w).fetchWord = w := by
  have := s.canFetch_iff.1 h
  have hhi : (s.storeWordAtPc w).memRead (BitVec.ofNat 12 s.pc.toNat) = highByte w := by
    have e : (BitVec.ofNat 12 s.pc.toNat).toNat = s.pc.toNat := by rw [BitVec.toNat_ofNat]; omega
    rw [State.memRead_storeWordAtPc w h, e, if_pos (by omega), Nat.sub_self]; rfl
  have hlo : (s.storeWordAtPc w).memRead (BitVec.ofNat 12 (s.pc.toNat + 1)) = lowByte w := by
    have e : (BitVec.ofNat 12 (s.pc.toNat + 1)).toNat = s.pc.toNat + 1 := by rw [BitVec.toNat_ofNat]; omega
    rw [State.memRead_storeWordAtPc w h, e, if_pos (by omega), Nat.add_sub_cancel_left]; rfl
  have hpc : (s.storeWordAtPc w).pc = s.pc := rfl
  rw [State.fetchWord_eq, hpc, hhi, hlo, wordOfBytes_bytes]

/-- After the events of the gap the word of `withFetchWord` stands at the `pc` the step starts with. -/
theorem State.betweenSteps_withFetchWord (s : State) (w : Word) :
    (s.withFetchWord 16 w.toNat).betweenSteps = s.fetchable.betweenSteps.storeWordAtPc w := by
  have hw : BitVec.ofNat 16 (w.toNat % 2 ^ 16) = w := by
    rw [Nat.mod_eq_of_lt w.isLt, BitVec.ofNat_toNat, BitVec.setWidth_eq]
  rw [State.withFetchWord, hw, State.betweenSteps_setMem, State.storeWordAtPc,
    s.fetchable.betweenSteps_sameInside.mem]

/-- With no event to come and a `pc` that can be fetched from, there is nothing to move. -/
theorem State.fetchable_betweenSteps_eq_self {s : State} (hs : s.schedule = []) (h : s.canFetch = true) :
    s.fetchable.betweenSteps = s := by
  have e : s.betweenSteps = s := by rw [State.betweenSteps, hs]
  rw [State.fetchable, e, if_pos h, e]

end Sys2Proof.Machine

namespace Sys2Proof.Proofs

open Sys2Proof Sys2Proof.Machine Sys2Proof.Spec

/-- Settles O48: the events of the gap keep the invariant, and so does CORE's step. -/
theorem stepKeepsInv : Obligations.StepKeepsInv := fun _ _ hs h => coreStep_keeps_inv h (State.betweenSteps_inv hs)

/-- Settles O58, row by row of the table of 10_state.md R27. -/
theorem pcAfterEachInstruction : Obligations.PcAfterEachInstruction := fun _ _ _ h => exec_pcRow h

/-- Settles O56: a register that differs after an instruction's writes is one of those written. -/
theorem registerWritesAreNamed : Obligations.RegisterWritesAreNamed := by
  intro i s t r h hne
  have e := exec_effect h
  cases i
  case ldi x nn | addi x nn | rnd x nn | lddt x | mov x y | or x y | and x y | xor x y =>
    obtain rfl := e
    obtain rfl := State.eq_of_getV_setV_ne hne
    simp
  case add x y | sub x y | suby x y | shr x y | shl x y =>
    obtain rfl := e
    obtain rfl | rfl := State.eq_of_getV_setV_setV_ne hne <;> simp
  case drw x y n =>
    obtain ⟨-, rfl⟩ | ⟨-, rfl⟩ := e
    · obtain rfl := State.eq_of_getV_setV_ne hne
      simp
    · exact absurd rfl hne
  case wkey x =>
    obtain ⟨-, rfl⟩ | ⟨k, -, rfl | rfl⟩ := e
    · exact absurd rfl hne
    all_goals
      obtain rfl := State.eq_of_getV_setV_ne hne
      simp
  case ldm x =>
    obtain ⟨-, v, -, hv⟩ | ⟨-, rfl⟩ := e
    · have hr : r.toNat < x.toNat + 1 := by
        by_contra hr
        exact hne (by rw [hv, if_neg hr])
      simpa using Nat.le_of_lt_succ hr
    · exact absurd rfl hne
  case ret | call | bcd | stm => obtain ⟨_, rfl⟩ | ⟨_, rfl⟩ := e <;> exact absurd rfl hne
  all_goals obtain rfl := e; exact absurd rfl hne

/-- Settles O15: by the register rows (O56) the instruction names VF, unless it has written a flag to it. -/
theorem vfHoldsAFlagOrIsNamed : Obligations.VfHoldsAFlagOrIsNamed := by
  intro i s t h hne
  have e := exec_effect h
  have named := registerWritesAreNamed i s t 0xF h hne
  cases i
  case add | sub | suby => obtain rfl := e; exact .inl (State.vf_le_one_of_flag_last _ _)
  case shr x y | shl x y =>
    obtain rfl := e
    by_cases hx : x = 0xF
    · simp [hx]
    · exact .inl (State.vf_le_one_of_flag_first s _ _ hx)
  case drw x y n =>
    obtain ⟨-, rfl⟩ | ⟨-, rfl⟩ := e
    · exact .inl (State.vf_le_one_of_flag_last _ _)
    · exact absurd rfl hne
  case ldi x nn =>
    obtain rfl := e
    obtain rfl : x = 0xF := by simpa using named
    simp
  case ldm x =>
    have hx : 15 ≤ x.toNat := by simpa using named
    have : x = 0xF := by bv_omega
    simp [this]
  case wkey x =>
    have hx : x = 0xF := (by simpa using named : x = 0xF ∧ _).1
    simp [hx]
  case addi | mov | or | and | xor | rnd | lddt => exact .inr (by simpa [eq_comm] using named)
  all_goals simp at named

/-- Settles O53, by what each instruction writes. -/
theorem indexChangesOnlyByItsInstructions : Obligations.IndexChangesOnlyByItsInstructions := by
  intro i s t h
  cases exec_writes h with
  | index i hi a => exact .inr hi
  | _ => exact .inl rfl

/-- Settles O54, slot by slot and for `SP`. -/
theorem stackChangesOnlyByCallAndReturn : Obligations.StackChangesOnlyByCallAndReturn :=
  fun _ _ _ h => ⟨exec_slot h, exec_sp h⟩

/-- Settles O52: who writes the timers by `exec_writes`, that `ST` is not read by `exec_setST`. -/
theorem timersAreOwnedAndStUnread : Obligations.TimersAreOwnedAndStUnread := by
  intro i s t h
  refine ⟨?_, ?_, fun b => ⟨?_, fun hi => exec_setST b hi h⟩⟩
  · cases exec_writes h with
    | delayTimer x => exact .inr ⟨x, rfl, rfl⟩
    | _ => exact .inl rfl
  · cases exec_writes h with
    | soundTimer x => exact .inr ⟨x, rfl, rfl⟩
    | _ => exact .inl rfl
  · rintro ⟨x, rfl⟩
    obtain rfl := eq_of_complete h
    rfl

/-- Settles O44: the state that the step fetches from is the one with the word stored at its `pc`. -/
theorem withFetchWordRunsTheWord : Obligations.WithFetchWordRunsTheWord := by
  intro s w i hd
  have hf : (s.fetchable.betweenSteps.storeWordAtPc w).canFetch = true := s.fetchable_canFetch
  have hw := State.fetchWord_storeWordAtPc w s.fetchable_canFetch
  refine ⟨s.fetchable.betweenSteps.storeWordAtPc w, (State.canFetch_iff _).1 hf, hw, ?_, fun hs hc => ?_⟩
  · rw [step, State.betweenSteps_withFetchWord, coreStep_of_decode hf ((congrArg decode hw).trans hd), hw]
    rfl
  · rw [State.fetchable_betweenSteps_eq_self hs hc]
    refine ⟨rfl, fun _ => rfl, rfl, ⟨rfl, rfl⟩, ⟨rfl, rfl⟩, rfl, ⟨rfl, rfl⟩, ⟨rfl, rfl, rfl, rfl, rfl⟩, rfl, rfl,
      fun a h0 h1 => ?_⟩
    rw [State.memRead_storeWordAtPc w hc, if_neg (by omega)]

/-- Settles O47: each of the three ways of a step is a next state. -/
theorem stepAlwaysReturns : Obligations.StepAlwaysReturns := fun s => coreStep_returns s.betweenSteps

/-- Settles O40: reset writes CORE's registers and nothing else. -/
theorem resetSetsCoreOnly : Obligations.ResetSetsCoreOnly := by
  refine ⟨fun s => ⟨fun _ => rfl, rfl, ⟨rfl, rfl⟩, ⟨rfl, rfl, rfl, rfl, rfl⟩, rfl, rfl⟩, fun s t ht => ?_⟩
  obtain ⟨hv, hstack, hrest⟩ : t.v = Vector.replicate 16 0 ∧ t.stack = Vector.replicate 16 0 ∧
      t.sp = 0 ∧ t.pc = 0x200 ∧ t.dt = 0 ∧ t.st = 0 ∧ t.index = 0 := by
    obtain rfl | rfl : t = s.deliver .reset ∨ t = State.reset := by simpa using ht
    all_goals exact ⟨rfl, rfl, rfl, rfl, rfl, rfl, rfl⟩
  exact ⟨fun r => by simp [State.getV, hv], fun j hj => by simp [hstack], hrest⟩

/-- Settles O43: the three phases of a step and the numbers of the record's codes. -/
theorem stepIsFetchAdvanceExecute : Obligations.StepIsFetchAdvanceExecute := by
  refine ⟨fun _ => rfl, fun s i hpc hd => coreStep_of_decode (s.canFetch_iff.2 hpc) hd,
    fun s hpc => ⟨_, coreStep_refused (s.canFetch_false_iff.2 hpc), rfl⟩, fun s es rest => ⟨fun h => ?_, fun h => ?_⟩,
    rfl, rfl, rfl, rfl, rfl, fun _ => rfl, rfl, rfl⟩
  · rw [State.betweenSteps, h]
  · rw [State.betweenSteps, h]; rfl

/-- Settles O49: nothing is listed in Memory, and `pc` and the slots are constants. -/
theorem resetMeetsInv : Obligations.ResetMeetsInv := by
  refine ⟨⟨.nil, by simp [State.reset]⟩, by decide, fun j hj => ?_⟩
  simp [State.reset]

end Sys2Proof.Proofs

namespace Sys2Proof.Machine

/-! ### Bytes of Memory after a store -/

/-- A byte that a range write changed lies in the range (20_memory.md R64, R71). -/
theorem Memory.mem_range_of_read_writeBytes_ne {m : Memory} {a b : Addr} {bs : List Byte}
    (h : a.toNat + bs.length ≤ Config.memSize) (hne : (m.writeBytes a bs).read b ≠ m.read b) :
    a.toNat ≤ b.toNat ∧ b.toNat < a.toNat + bs.length := by
  by_contra hout
  exact hne (by rw [Memory.read_writeBytes m a bs b h, if_neg hout])

/-- Only BCD and STM write Memory (20_memory.md R62). -/
theorem exec_mem {i : Instr} {s t : State} (h : exec i s = .next t) :
    t.mem = s.mem ∨ (∃ x, i = .bcd x) ∨ ∃ x, i = .stm x := by
  cases exec_writes h with
  | mem i hi bs => exact .inr hi
  | _ => exact .inl rfl

/-- A byte that BCD changed is one of the three from `I` (R164). -/
theorem execBcd_changed_range {s t : State} {x : RegIx} {a : Addr} (h : exec (.bcd x) s = .next t)
    (hne : t.memRead a ≠ s.memRead a) : s.index.toNat ≤ a.toNat ∧ a.toNat < s.index.toNat + 3 := by
  obtain ⟨hr, rfl⟩ | ⟨-, rfl⟩ := exec_effect h
  · exact Memory.mem_range_of_read_writeBytes_ne hr hne
  · exact absurd rfl hne

/-- STM stores one byte for each register it names (R165). -/
theorem State.length_firstRegs_succ (s : State) (x : RegIx) : (s.firstRegs (x.toNat + 1)).length = x.toNat + 1 :=
  s.length_firstRegs x.isLt

/-- A byte that STM changed is one of the `x + 1` from `I` (R165). -/
theorem execStm_changed_range {s t : State} {x : RegIx} {a : Addr} (h : exec (.stm x) s = .next t)
    (hne : t.memRead a ≠ s.memRead a) : s.index.toNat ≤ a.toNat ∧ a.toNat ≤ s.index.toNat + x.toNat := by
  have hlen := s.length_firstRegs_succ x
  obtain ⟨hr, rfl⟩ | ⟨-, rfl⟩ := exec_effect h
  · have hin := Memory.mem_range_of_read_writeBytes_ne (by rw [hlen]; exact hr) hne
    omega
  · exact absurd rfl hne

/-- After a STM in range the byte `r` past `I` is `V[r]`, for each register it stores (R165). -/
theorem execStm_memRead {s t : State} {x : RegIx} (hr : s.index.toNat + x.toNat + 1 ≤ 4096)
    (h : exec (.stm x) s = .next t) (r : RegIx) (hrx : r.toNat ≤ x.toNat) {a : Addr}
    (ha : a.toNat = s.index.toNat + r.toNat) : t.memRead a = s.getV r := by
  have hlen := s.length_firstRegs_succ x
  obtain rfl := eq_of_complete ((execStm_inRange x hr).symm.trans h)
  have hin : s.index.toNat ≤ a.toNat ∧ a.toNat < s.index.toNat + (s.firstRegs (x.toNat + 1)).length := by omega
  rw [State.report_memRead, State.setMem_memRead, Memory.read_writeBytes _ _ _ _ (by rw [hlen]; exact hr),
    if_pos hin, ha, Nat.add_sub_cancel_left]
  exact s.getD_firstRegs r (Nat.lt_succ_of_le hrx)

/-- The word at `pc` as a number, the byte at the lower address first (20_memory.md R66). -/
theorem State.toNat_fetchWord (s : State) :
    s.fetchWord.toNat =
      (s.memRead (BitVec.ofNat 12 s.pc.toNat)).toNat * 256 + (s.memRead (BitVec.ofNat 12 (s.pc.toNat + 1))).toNat := by
  rw [State.fetchWord_eq, toNat_wordOfBytes]

end Sys2Proof.Machine

namespace Sys2Proof.Proofs

open Sys2Proof Sys2Proof.Machine Sys2Proof.Spec

/-- Settles O55: no other instruction writes Memory, and each of the two stores within its own range. -/
theorem memoryChangesOnlyByBcdAndStm : Obligations.MemoryChangesOnlyByBcdAndStm := by
  intro i s t a h hne
  obtain hmem | ⟨x, rfl⟩ | ⟨x, rfl⟩ := exec_mem h
  · exact absurd (congrArg (Memory.read · a) hmem) hne
  · obtain ⟨hlo, hhi⟩ := execBcd_changed_range h hne
    exact ⟨hlo, .inl ⟨x, rfl, hhi⟩⟩
  · obtain ⟨hlo, hhi⟩ := execStm_changed_range h hne
    exact ⟨hlo, .inr ⟨x, rfl, hhi⟩⟩

/-- Settles O59: STM leaves `pc` alone, so the fetch reads the first two bytes it has stored. -/
theorem storedBytesAreFetchedNext : Obligations.StoredBytesAreFetchedNext := by
  intro s t x hx hr hpc h
  have htpc : t.pc.toNat = s.index.toNat := (congrArg BitVec.toNat (exec_pcRow h)).trans hpc
  have hhi : t.memRead (BitVec.ofNat 12 t.pc.toNat) = s.getV 0 :=
    execStm_memRead hr h 0#4 (Nat.zero_le _) (by simp only [htpc, BitVec.toNat_ofNat]; omega)
  have hlo : t.memRead (BitVec.ofNat 12 (t.pc.toNat + 1)) = s.getV 1 :=
    execStm_memRead hr h 1#4 hx (by simp only [htpc, BitVec.toNat_ofNat]; omega)
  refine ⟨t.canFetch_iff.2 (by omega), ?_⟩
  rw [State.toNat_fetchWord, hhi, hlo]

/-- Settles O41, by what a read after a write gives. -/
theorem memoryWriteChangesOneCell : Obligations.MemoryWriteChangesOneCell := by
  intro m a b v
  refine ⟨?_, fun hb => ?_⟩
  · rw [Memory.read_write, if_pos rfl]
  · rw [Memory.read_write, if_neg hb]

/-- Settles O42: the two bytes of the fetched word, as a number. -/
theorem fetchIsBigEndian : Obligations.FetchIsBigEndian := fun s _ => s.toNat_fetchWord

end Sys2Proof.Proofs

namespace Sys2Proof.Laws.EncodesToRow

/-- Every instruction has a row that its word agrees with. -/
theorem statement (i : Instr) : Statement i :=
  match i with
  | .cls => cls
  | .ret => ret
  | .jp nnn => jp nnn
  | .call nnn => call nnn
  | .sei x nn => sei x nn
  | .snei x nn => snei x nn
  | .ser x y => ser x y
  | .ldi x nn => ldi x nn
  | .addi x nn => addi x nn
  | .mov x y => mov x y
  | .or x y => or x y
  | .and x y => and x y
  | .xor x y => xor x y
  | .add x y => add x y
  | .sub x y => sub x y
  | .shr x y => shr x y
  | .suby x y => suby x y
  | .shl x y => shl x y
  | .sner x y => sner x y
  | .ldix nnn => ldix nnn
  | .jpv0 nnn => jpv0 nnn
  | .rnd x nn => rnd x nn
  | .drw x y n => drw x y n
  | .skp x => skp x
  | .sknp x => sknp x
  | .lddt x => lddt x
  | .wkey x => wkey x
  | .stdt x => stdt x
  | .stst x => stst x
  | .addix x => addix x
  | .font x => font x
  | .bcd x => bcd x
  | .stm x => stm x
  | .ldm x => ldm x

end Sys2Proof.Laws.EncodesToRow

namespace Sys2Proof

/-! ### The decoder and the encoder undo each other (30_encoding.md R91, R92, R95) -/

/-- The fixed fields of an instruction's word lead the decoder to the instruction's branch, and the operand fields are
the operands. -/
theorem decode_encode (i : Instr) : decode (encode i) = some i := by
  cases i
  case cls | ret => rfl
  case jp | call | ldix | jpv0 => simp [encode, decode]
  case sei | snei | ldi | addi | rnd => simp [encode, decode]
  case ser | sner | drw => simp [encode, decode]
  case mov | or | and | xor | add | sub | shr | suby | shl => simp [encode, decode, decodeGroup8]
  case skp | sknp => simp [encode, decode, decodeGroupE]
  case lddt | wkey | stdt | stst | addix | font | bcd | stm | ldm => simp [encode, decode, decodeGroupF]

theorem encode_of_decodeGroup8 {w : Word} {i : Instr} (hop : fieldOp w = 0x8) (h : decodeGroup8 w = some i) :
    encode i = w := by
  unfold decodeGroup8 at h
  split at h
  case h_10 => cases h
  all_goals
    cases h
    exact wordXYN_of_fields hop (nibble_eq ‹_›)

theorem encode_of_decodeGroupE {w : Word} {i : Instr} (hop : fieldOp w = 0xE) (h : decodeGroupE w = some i) :
    encode i = w := by
  unfold decodeGroupE at h
  split_ifs at h <;> cases h <;> exact wordXNN_of_fields hop ‹_›

theorem encode_of_decodeGroupF {w : Word} {i : Instr} (hop : fieldOp w = 0xF) (h : decodeGroupF w = some i) :
    encode i = w := by
  unfold decodeGroupF at h
  split_ifs at h <;> cases h <;> exact wordXNN_of_fields hop ‹_›

/-- By the opcode nibble: the groups 8, E and F have their own lemma; in the others the fields that the decoder reads
and the nibbles it tests are the whole word. -/
theorem encode_of_decode {w : Word} {i : Instr} (h : decode w = some i) : encode i = w := by
  unfold decode at h
  split at h <;> rename_i hop
  case h_9 => exact encode_of_decodeGroup8 (nibble_eq hop) h
  case h_15 => exact encode_of_decodeGroupE (nibble_eq hop) h
  case h_16 => exact encode_of_decodeGroupF (nibble_eq hop) h
  case h_17 => cases h
  case h_1 => split_ifs at h with hw hw <;> cases h <;> exact hw.symm
  case h_6 | h_10 =>
    split_ifs at h with hn
    cases h
    exact wordXYN_of_fields (nibble_eq hop) hn
  case h_14 => cases h; exact wordXYN_of_fields (nibble_eq hop) rfl
  case h_2 | h_3 | h_11 | h_12 => cases h; exact wordNNN_of_fields (nibble_eq hop)
  all_goals cases h; exact wordXNN_of_fields (nibble_eq hop) rfl

theorem decode_eq_some_iff {w : Word} {i : Instr} : decode w = some i ↔ encode i = w :=
  ⟨encode_of_decode, fun h => h ▸ decode_encode i⟩

/-! ### The rows of the opcode map (R96) -/

/-- A mnemonic names one row. -/
theorem opcodeMap_mnemonic_inj : ∀ r ∈ opcodeMap, ∀ r' ∈ opcodeMap, r.mnemonic = r'.mnemonic → r = r' := by
  decide

/-- The word of an instruction agrees with the row of the instruction's mnemonic. -/
theorem admits_encode {r : OpcodeRow} {i : Instr} (hr : r ∈ opcodeMap) (hm : i.mnemonic = r.mnemonic) :
    r.admits (encode i) = true := by
  obtain ⟨r', hr', hm', ha⟩ := Laws.EncodesToRow.statement i
  obtain rfl := opcodeMap_mnemonic_inj r' hr' r hr (hm'.trans hm)
  exact ha

/-- Every word that agrees with the row is the word of an instruction of the row's mnemonic. -/
def OpcodeRow.Spelled (r : OpcodeRow) : Prop :=
  ∀ w, r.admits w = true → ∃ i, encode i = w ∧ i.mnemonic = r.mnemonic

theorem OpcodeRow.admits_iff {r : OpcodeRow} {w : Word} : r.admits w = true ↔ w &&& r.mask = r.pattern := beq_iff_eq

namespace OpcodeRow.Spelled

/-- A row of no operand. -/
theorem whole (i : Instr) {m : String} {p : Word} (he : encode i = p := by rfl) (hm : i.mnemonic = m := by rfl) :
    Spelled ⟨m, p, 0xFFFF⟩ :=
  fun w h => ⟨i, he.trans ((mask_FFFF w p).1 (admits_iff.1 h)).symm, hm⟩

/-- A row of the format NNN. -/
theorem nnn (f : Addr → Instr) (op : Nibble) {m : String} {p : Word} (hp : p = wordXYN op 0 0 0 := by rfl)
    (he : ∀ a, encode (f a) = wordNNN op a := by intro _; rfl) (hm : ∀ a, (f a).mnemonic = m := by intro _; rfl) :
    Spelled ⟨m, p, 0xF000⟩ := fun w h =>
  have hop := (mask_F000 w op).1 ((admits_iff.1 h).trans hp)
  ⟨f (fieldNNN w), (he _).trans (wordNNN_of_fields hop), hm _⟩

/-- A row of the format XNN. -/
theorem xnn (f : RegIx → Byte → Instr) (op : Nibble) {m : String} {p : Word} (hp : p = wordXYN op 0 0 0 := by rfl)
    (he : ∀ x nn, encode (f x nn) = wordXNN op x nn := by intro _ _; rfl)
    (hm : ∀ x nn, (f x nn).mnemonic = m := by intro _ _; rfl) : Spelled ⟨m, p, 0xF000⟩ := fun w h =>
  have hop := (mask_F000 w op).1 ((admits_iff.1 h).trans hp)
  ⟨f (fieldX w) (fieldNN w), (he _ _).trans (wordXNN_of_fields hop rfl), hm _ _⟩

/-- The row of the format XYN, all of whose nibbles but the first are operands. -/
theorem drw : Spelled ⟨"DRW", 0xD000, 0xF000⟩ := fun w h =>
  have hop := (mask_F000 w 0xD).1 (admits_iff.1 h)
  ⟨.drw (fieldX w) (fieldY w) (fieldN w), wordXYN_of_fields hop rfl, rfl⟩

/-- A row of the format XYS. -/
theorem xys (f : RegIx → RegIx → Instr) (op n : Nibble) {m : String} {p : Word}
    (hp : p = wordXYN op 0 0 n := by rfl)
    (he : ∀ x y, encode (f x y) = wordXYN op x y n := by intro _ _; rfl)
    (hm : ∀ x y, (f x y).mnemonic = m := by intro _ _; rfl) : Spelled ⟨m, p, 0xF00F⟩ := fun w h =>
  have hf := (mask_F00F w op n).1 ((admits_iff.1 h).trans hp)
  ⟨f (fieldX w) (fieldY w), (he _ _).trans (wordXYN_of_fields hf.1 hf.2), hm _ _⟩

/-- A row of the format XSS. -/
theorem xss (f : RegIx → Instr) (op : Nibble) (nn : Byte) {m : String} {p : Word}
    (hp : p = wordXYN op 0 (nn.extractLsb' 4 4) (nn.extractLsb' 0 4) := by rfl)
    (he : ∀ x, encode (f x) = wordXNN op x nn := by intro _; rfl)
    (hm : ∀ x, (f x).mnemonic = m := by intro _; rfl) : Spelled ⟨m, p, 0xF0FF⟩ := fun w h =>
  have hf := (mask_F0FF w op _ _).1 ((admits_iff.1 h).trans hp)
  ⟨f (fieldX w), (he _).trans (wordXNN_of_fields hf.1 ((fieldNN_eq_iff w nn).2 hf.2)), hm _⟩

theorem of_mem_low : ∀ r ∈ opcodeRowsLow, r.Spelled := by
  simp only [opcodeRowsLow, List.forall_mem_cons, List.not_mem_nil, false_imp_iff, implies_true, and_true]
  exact ⟨whole .cls, whole .ret, nnn .jp 0x1, nnn .call 0x2, xnn .sei 0x3, xnn .snei 0x4, xys .ser 0x5 0x0,
    xnn .ldi 0x6, xnn .addi 0x7, xys .mov 0x8 0x0, xys .or 0x8 0x1, xys .and 0x8 0x2, xys .xor 0x8 0x3,
    xys .add 0x8 0x4, xys .sub 0x8 0x5, xys .shr 0x8 0x6, xys .suby 0x8 0x7⟩

theorem of_mem_high : ∀ r ∈ opcodeRowsHigh, r.Spelled := by
  simp only [opcodeRowsHigh, List.forall_mem_cons, List.not_mem_nil, false_imp_iff, implies_true, and_true]
  exact ⟨xys .shl 0x8 0xE, xys .sner 0x9 0x0, nnn .ldix 0xA, nnn .jpv0 0xB, xnn .rnd 0xC, drw, xss .skp 0xE 0x9E,
    xss .sknp 0xE 0xA1, xss .lddt 0xF 0x07, xss .wkey 0xF 0x0A, xss .stdt 0xF 0x15, xss .stst 0xF 0x18,
    xss .addix 0xF 0x1E, xss .font 0xF 0x29, xss .bcd 0xF 0x33, xss .stm 0xF 0x55, xss .ldm 0xF 0x65⟩

theorem of_mem {r : OpcodeRow} (h : r ∈ opcodeMap) : r.Spelled :=
  (List.mem_append.1 h).elim (of_mem_low r) (of_mem_high r)

end OpcodeRow.Spelled

/-! ### The groups of unrecognised words (R97) -/

theorem group8Ok_iff (w : Word) : group8Ok w = true ↔ (fieldN w).toNat ≤ 7 ∨ (fieldN w).toNat = 0xE := by
  simp only [group8Ok, Bool.or_eq_true, decide_eq_true_eq, beq_iff_eq, ← BitVec.toNat_inj]
  rfl

theorem isSome_decodeGroup8 (w : Word) : (decodeGroup8 w).isSome = group8Ok w := by
  rw [Bool.eq_iff_iff, group8Ok_iff]
  unfold decodeGroup8
  split
  case h_10 =>
    simp only [imp_false] at *
    have := (fieldN w).isLt
    simp only [Option.isSome_none, Bool.false_eq_true, false_iff]
    omega
  all_goals rename_i hn; simp [hn]

theorem isSome_decodeGroupE (w : Word) : (decodeGroupE w).isSome = groupEOk w := by
  unfold decodeGroupE groupEOk
  change _ = (fieldNN w == 0x9E || fieldNN w == 0xA1)
  split_ifs <;> simp_all

theorem isSome_decodeGroupF (w : Word) : (decodeGroupF w).isSome = groupFOk w := by
  unfold decodeGroupF groupFOk
  change _ = List.contains _ (fieldNN w).toNat
  split_ifs <;> simp_all [← BitVec.toNat_inj]

/-- By the opcode nibble, which chooses the same group on both sides. -/
theorem isSome_decode (w : Word) : (decode w).isSome = wellFormedWord w := by
  unfold decode
  split <;> rename_i hop
  case h_17 =>
    have := (fieldOp w).isLt
    simp only [imp_false] at *
    omega
  all_goals
    have hgroup : w.extractLsb' 12 4 = _ := nibble_eq hop
    simp only [wellFormedWord, hgroup, BitVec.reduceEq, if_true, if_false]
  case h_1 => unfold group0Ok; split_ifs <;> simp_all
  case h_6 | h_10 => unfold lowNibbleZero fieldN; split_ifs <;> simp_all
  case h_9 => exact isSome_decodeGroup8 w
  case h_15 => exact isSome_decodeGroupE w
  case h_16 => exact isSome_decodeGroupF w
  all_goals rfl

end Sys2Proof

namespace Sys2Proof.Proofs

open Sys2Proof

/-- Settles O1, instruction by instruction, through the fields of the built word. -/
theorem decodeOfEncode : Obligations.DecodeOfEncode := decode_encode

/-- Settles O2, branch by branch of the decoder: what a branch tests and reads is the whole word. -/
theorem encodeOfDecode : Obligations.EncodeOfDecode := fun _ _ => encode_of_decode

/-- Settles O3: what decodes is what the encoder writes, and a row is spelled by the words of its mnemonic. -/
theorem decodeFollowsOpcodeMap : Obligations.DecodeFollowsOpcodeMap := by
  intro w r hr
  simp only [decode_eq_some_iff]
  constructor
  · exact OpcodeRow.Spelled.of_mem hr w
  · rintro ⟨i, rfl, hm⟩
    exact admits_encode hr hm

/-- Settles O4, group by group. -/
theorem unrecognisedWordsByGroup : Obligations.UnrecognisedWordsByGroup := isSome_decode

/-- Settles O5: the ten words are the words of the ten instructions. -/
theorem writtenWordsDecode : Obligations.WrittenWordsDecode :=
  ⟨decode_encode (.jp 0x234), decode_encode (.ldi 0 5), decode_encode (.add 0 1), decode_encode .ret,
    decode_encode (.drw 1 2 5), decode_encode (.ldm 2), decode_encode (.skp 5), decode_encode (.wkey 3),
    decode_encode (.ldix 0x2F0), decode_encode (.sei 0xA 0x42)⟩

end Sys2Proof.Proofs

namespace Sys2Proof

/-! ### The words of a row (30_encoding.md R96) -/

/-- A row of the format NNN: every word of the opcode nibble is the instruction with the word's own immediate. -/
theorem words_nnn {f : Addr → Instr} {op : Nibble} (h : ∀ a, encode (f a) = wordNNN op a) :
    Spec.Words 0xF000 (wordXYN op 0 0 0) (fun w => f (Spec.nnnOf w)) :=
  fun w hw => decode_eq_some_iff.2 ((h _).trans (wordNNN_of_fields ((mask_F000 w op).1 hw)))

/-- A row of no operand: its one word is the instruction. -/
theorem words_whole (i : Instr) : Spec.Words 0xFFFF (encode i) (fun _ => i) :=
  fun w hw => decode_eq_some_iff.2 ((mask_FFFF w _).1 hw).symm

end Sys2Proof

namespace Sys2Proof.Machine

open Sys2Proof.Spec

/-! ### The frames of the two ends (60_exceptions.md R204, R209) -/

/-- An instruction that completes after a write of `pc` has changed nothing else. -/
theorem State.sameButPc_setPc (s : State) (p : Word) : SameButPc s ((s.setPc p).report .ok) :=
  ⟨fun _ => rfl, rfl, ⟨rfl, rfl⟩, ⟨rfl, rfl⟩, fun _ => rfl, rfl, ⟨rfl, rfl⟩, ⟨rfl, rfl, rfl, rfl, rfl⟩, rfl, rfl⟩

/-- A condition is reported and remembered, and that is all. -/
theorem State.onlyReports_report (s : State) {c : StepCode} (h : c.isCondition = true) :
    OnlyReports c s (s.report c) :=
  ⟨fun _ => rfl, rfl, rfl, ⟨rfl, rfl⟩, ⟨rfl, rfl⟩, fun _ => rfl, rfl, ⟨rfl, rfl⟩, ⟨rfl, rfl, rfl, rfl, rfl⟩, rfl,
    s.report_condition_firstCondition h⟩

/-! ### The stack: what a push leaves for the pop (40_flow_stack.md R124) -/

/-- A stack slot after a push: the one at `SP` holds what was pushed (decision D13). -/
theorem State.getElem_push_stack (s : State) (p : Word) (h : s.sp.val < 16) (j : Nat) (hj : j < 16) :
    (s.push p h).stack[j] = if j = s.sp.val then p else s.stack[j] := by
  rw [State.push_stack, Vector.getElem_set]
  exact if_congr eq_comm rfl rfl

/-- The slot that a pop reads after a push is the one pushed. -/
theorem State.top_push (s : State) (p : Word) (h : s.sp.val < 16) :
    (s.push p h).top (Nat.succ_pos s.sp.val) = p :=
  (s.getElem_push_stack p h s.sp.val h).trans (if_pos rfl)

/-- A pop undoes what a push does to `SP`. -/
theorem State.drop_push_sp (s : State) (p : Word) (h : s.sp.val < 16) : (s.push p h).drop.sp = s.sp :=
  Fin.ext (Nat.add_sub_cancel s.sp.val 1)

/-! ### A whole step on an instruction of control transfer -/

/-- The fetch depends on `pc` and on Memory only (20_memory.md R66). -/
theorem State.fetchWord_congr {s t : State} (hpc : t.pc = s.pc) (hmem : SameMem s t) : t.fetchWord = s.fetchWord := by
  rw [State.fetchWord_eq, State.fetchWord_eq, hpc, hmem, hmem]

theorem State.canFetch_congr {s t : State} (hpc : t.pc = s.pc) : t.canFetch = s.canFetch := by
  rw [State.canFetch, State.canFetch, hpc]

/-- The state a step on JP to `nnn` ends in. -/
def State.afterJump (s : State) (nnn : Addr) : State :=
  ((s.beginExecute s.fetchWord).setPc (zextAddr nnn)).report .ok

/-- The state a step on CALL to `nnn` ends in, with a free slot: `P + 2` is the address pushed. -/
def State.afterCall (s : State) (nnn : Addr) (h : s.sp.val < 16) : State :=
  (((s.beginExecute s.fetchWord).push (s.pc + 2) h).setPc (zextAddr nnn)).report .ok

/-- The state a step on RET ends in, with an address held. -/
def State.afterReturn (s : State) (h : 0 < s.sp.val) : State :=
  ((s.beginExecute s.fetchWord).drop.setPc (s.top h)).report .ok

theorem coreStep_jump {s : State} {nnn : Addr} (hf : s.canFetch = true) (hd : decode s.fetchWord = some (.jp nnn)) :
    coreStep s = .next (s.afterJump nnn) :=
  coreStep_of_decode hf hd

theorem coreStep_call {s : State} {nnn : Addr} (hf : s.canFetch = true)
    (hd : decode s.fetchWord = some (.call nnn)) (h : s.sp.val < 16) : coreStep s = .next (s.afterCall nnn h) :=
  (coreStep_of_decode hf hd).trans (execCall_room (s := s.beginExecute s.fetchWord) nnn h)

theorem coreStep_return {s : State} (hf : s.canFetch = true) (hd : decode s.fetchWord = some .ret)
    (h : 0 < s.sp.val) : coreStep s = .next (s.afterReturn h) :=
  (coreStep_of_decode hf hd).trans (execRet_some (s := s.beginExecute s.fetchWord) h)

/-! ### A finished program (70_reset_and_hazards.md R251) -/

theorem State.betweenSteps_eq_self {s : State} (h : s.schedule = []) : s.betweenSteps = s := by
  rw [State.betweenSteps, h]

/-- Whether a program has finished depends on `pc` and on Memory only. -/
theorem State.finished_congr {s t : State} (hpc : t.pc = s.pc) (hmem : SameMem s t) (h : s.finished) : t.finished := by
  obtain ⟨hf, nnn, hd, hn⟩ := h
  exact ⟨(State.canFetch_congr hpc).trans hf, nnn, (State.fetchWord_congr hpc hmem).symm ▸ hd, hn.trans hpc.symm⟩

end Sys2Proof.Machine

namespace Sys2Proof.Proofs

open Sys2Proof Sys2Proof.Machine Sys2Proof.Spec

/-- Settles O20: the return finds on the stack the address the call has pushed, and one pop undoes one push. -/
theorem callThenReturnRoundTrip : Obligations.CallThenReturnRoundTrip := by
  intro s nnn hf hd hsp hft hret
  have hroom : s.sp.val < 16 := Nat.lt_succ_of_le hsp
  have hheld : 0 < (s.afterCall nnn hroom).sp.val := Nat.succ_pos s.sp.val
  have hfetch : (s.afterCall nnn hroom).canFetch = true :=
    (State.canFetch_congr (s := s.setPc (nnn.setWidth 16)) rfl).trans hft
  have hword : (s.afterCall nnn hroom).fetchWord = encode .ret :=
    (State.fetchWord_congr (s := s.setPc (nnn.setWidth 16)) rfl fun _ => rfl).trans hret
  have hpc : ((s.afterCall nnn hroom).afterReturn hheld).pc = s.pc + 2 :=
    (s.beginExecute s.fetchWord).top_push (s.pc + 2) hroom
  have hspu : ((s.afterCall nnn hroom).afterReturn hheld).sp = s.sp :=
    (s.beginExecute s.fetchWord).drop_push_sp (s.pc + 2) hroom
  refine ⟨_, _, coreStep_call hf hd hroom, coreStep_return hfetch (decode_eq_some_iff.2 hword.symm) hheld, hpc,
    hspu, fun j hj hne => ?_, fun _ => rfl, fun _ => rfl, rfl, ⟨rfl, rfl⟩, rfl, ⟨rfl, rfl⟩, rfl, rfl, rfl⟩
  exact ((s.beginExecute s.fetchWord).getElem_push_stack (s.pc + 2) hroom j hj).trans (if_neg hne)

/-- Settles O60: the jump puts back the `pc` the step started from, and Memory is as before. -/
theorem finishedStaysFinished : Obligations.FinishedStaysFinished := by
  intro s hfin hsch
  have ⟨hf, nnn, hd, hn⟩ := hfin
  have hstep : step s = .next (s.afterJump nnn) := by
    rw [step, State.betweenSteps_eq_self hsch, coreStep_jump hf hd]
  have hpc : (s.afterJump nnn).pc = s.pc := hn
  exact ⟨_, hstep, rfl, hpc, fun _ => rfl, rfl, ⟨rfl, rfl⟩, ⟨rfl, rfl⟩, rfl, rfl, ⟨rfl, rfl⟩, rfl, rfl, rfl, hsch,
    State.finished_congr hpc (fun _ => rfl) hfin⟩

/-- Settles O16: the 12-bit target loses nothing in `pc`. -/
theorem jumpSetsPc : Obligations.JumpSetsPc :=
  ⟨words_nnn (op := 0x1) fun _ => rfl, fun s nnn => ⟨_, rfl, toNat_zextAddr nnn, s.sameButPc_setPc _⟩⟩

/-- Settles O17: a free slot is written, or the full stack is reported. -/
theorem callPushesReturnAddress : Obligations.CallPushesReturnAddress := by
  refine ⟨words_nnn (op := 0x2) fun _ => rfl, fun s nnn h => ?_, fun s nnn h => ?_⟩
  · have hroom : s.sp.val < 16 := Nat.lt_succ_of_le h
    exact ⟨_, execCall_room nnn hroom, rfl, s.getElem_push_stack s.pc hroom, toNat_zextAddr nnn, fun _ => rfl, rfl,
      ⟨rfl, rfl⟩, fun _ => rfl, rfl, ⟨rfl, rfl⟩, ⟨rfl, rfl, rfl, rfl, rfl⟩, rfl, rfl⟩
  · exact ⟨_, execCall_full nnn h, s.onlyReports_report rfl⟩

/-- Settles O18: the last pushed slot is read, or the empty stack is reported. -/
theorem returnPopsIntoPc : Obligations.ReturnPopsIntoPc := by
  refine ⟨words_whole .ret, fun s h => ?_, fun s h => ?_⟩
  · exact ⟨_, execRet_some h, rfl, rfl, rfl, fun _ => rfl, rfl, ⟨rfl, rfl⟩, fun _ => rfl, rfl, ⟨rfl, rfl⟩,
      ⟨rfl, rfl, rfl, rfl, rfl⟩, rfl, rfl⟩
  · exact ⟨_, execRet_none h, s.onlyReports_report rfl⟩

/-- Settles O19: the sum of a byte and a 12-bit number fits `pc`. -/
theorem jumpWithOffsetAddsV0 : Obligations.JumpWithOffsetAddsV0 :=
  ⟨words_nnn (op := 0xB) fun _ => rfl,
    fun s nnn => ⟨_, rfl, toNat_zextByte16_add_zextAddr (s.getV 0) nnn, s.sameButPc_setPc _⟩⟩

end Sys2Proof.Proofs

namespace Sys2Proof

/-! ### The words of a row: the formats XNN, XYS and XSS (30_encoding.md R96) -/

/-- A row of the format XNN: every word of the opcode nibble is the instruction with the word's own register and byte. -/
theorem words_xnn {f : RegIx → Byte → Instr} {op : Nibble} (h : ∀ x nn, encode (f x nn) = wordXNN op x nn) :
    Spec.Words 0xF000 (wordXYN op 0 0 0) (fun w => f (Spec.xOf w) (Spec.nnOf w)) :=
  fun w hw => decode_eq_some_iff.2 ((h _ _).trans (wordXNN_of_fields ((mask_F000 w op).1 hw) rfl))

/-- A row of the format XYS: the first and the last nibble are fixed, the two between them are the registers. -/
theorem words_xys {f : RegIx → RegIx → Instr} {op n : Nibble} (h : ∀ x y, encode (f x y) = wordXYN op x y n) :
    Spec.Words 0xF00F (wordXYN op 0 0 n) (fun w => f (Spec.xOf w) (Spec.yOf w)) := fun w hw =>
  have ⟨hop, hn⟩ := (mask_F00F w op n).1 hw
  decode_eq_some_iff.2 ((h _ _).trans (wordXYN_of_fields hop hn))

/-- A row of the format XSS: the first nibble and the low byte are fixed, the nibble between them is the register. -/
theorem words_xss {f : RegIx → Instr} {op : Nibble} {nn : Byte} (h : ∀ x, encode (f x) = wordXNN op x nn) :
    Spec.Words 0xF0FF (wordXYN op 0 (nn.extractLsb' 4 4) (nn.extractLsb' 0 4)) (fun w => f (Spec.xOf w)) := fun w hw =>
  have ⟨hop, hn⟩ := (mask_F0FF w op _ _).1 hw
  decode_eq_some_iff.2 ((h _).trans (wordXNN_of_fields hop ((fieldNN_eq_iff w nn).2 hn)))

end Sys2Proof

namespace Sys2Proof.Machine

open Sys2Proof.Spec

/-- An instruction that ends in a skip leaves `pc` as its row of 10_state.md R27 says, and all else as it was (41_skip.md
R130). -/
theorem next_of_skipIf {i : Instr} {s : State} {taken : Bool} (h : exec i s = complete (s.skipIf taken)) :
    Next i s fun t => PcRow i s t ∧ SameButPc s t := by
  refine ⟨_, h, exec_pcRow h, ?_⟩
  rw [State.skipIf_eq]
  exact s.sameButPc_setPc _

end Sys2Proof.Machine

namespace Sys2Proof.Proofs

open Sys2Proof Sys2Proof.Machine Sys2Proof.Spec

/-- Settles O21: both end in a skip, and their rows of the `pc` table test the same equality. -/
theorem skipOnImmediate : Obligations.SkipOnImmediate :=
  ⟨words_xnn (op := 0x3) fun _ _ => rfl, words_xnn (op := 0x4) fun _ _ => rfl,
    fun _ _ _ => ⟨next_of_skipIf rfl, next_of_skipIf rfl⟩⟩

/-- Settles O22, as O21 with a second register for the byte. -/
theorem skipOnRegisters : Obligations.SkipOnRegisters :=
  ⟨words_xys (op := 0x5) (n := 0x0) fun _ _ => rfl, words_xys (op := 0x9) (n := 0x0) fun _ _ => rfl,
    fun _ _ _ => ⟨next_of_skipIf rfl, next_of_skipIf rfl⟩⟩

/-- Settles O23: both end in a skip, and their rows of the `pc` table test the same key. -/
theorem skipOnKey : Obligations.SkipOnKey :=
  ⟨words_xss (op := 0xE) (nn := 0x9E) fun _ => rfl, words_xss (op := 0xE) (nn := 0xA1) fun _ => rfl,
    fun _ _ => ⟨next_of_skipIf rfl, next_of_skipIf rfl⟩⟩

end Sys2Proof.Proofs

namespace Sys2Proof.Machine

open Sys2Proof.Spec

/-! ### Instructions that write registers and nothing else (42_alu.md) -/

theorem State.getV_setV_self (s : State) (x : RegIx) (b : Byte) : (s.setV x b).getV x = b :=
  (s.getV_setV x x b).trans (if_pos rfl)

theorem State.getV_setV_of_ne (s : State) {x r : RegIx} (b : Byte) (h : r ≠ x) : (s.setV x b).getV r = s.getV r :=
  (s.getV_setV x r b).trans (if_neg h)

/-- An instruction that completes after writes of registers has changed nothing else. -/
theorem State.sameButRegs_report (s : State) (v : Vector Byte 16) :
    SameButRegs s (State.report { s with v := v } .ok) :=
  ⟨rfl, rfl, ⟨rfl, rfl⟩, ⟨rfl, rfl⟩, fun _ => rfl, rfl, ⟨rfl, rfl⟩, ⟨rfl, rfl, rfl, rfl, rfl⟩, rfl, rfl⟩

/-- One register write: the register holds the value, and all else is as it was. -/
theorem next_of_setV {i : Instr} {s : State} {x : RegIx} {b : Byte} (h : exec i s = complete (s.setV x b)) :
    Next i s fun t => t.getV x = b ∧ SameRegsBut x s t ∧ SameButRegs s t :=
  ⟨_, h, s.getV_setV_self x b, fun _ => s.getV_setV_of_ne b, s.sameButRegs_report _⟩

/-- Two register writes: the later one stands, the earlier one where it names another register (R12, R153), and all else
is as it was. -/
theorem next_of_setV_setV {i : Instr} {s : State} {x y : RegIx} {b c : Byte}
    (h : exec i s = complete ((s.setV x b).setV y c)) :
    Next i s fun t => (x ≠ y → t.getV x = b) ∧ t.getV y = c ∧ (∀ r, r ≠ x → r ≠ y → t.getV r = s.getV r) ∧
      SameButRegs s t :=
  ⟨_, h, fun hxy => ((s.setV x b).getV_setV_of_ne c hxy).trans (s.getV_setV_self x b),
    (s.setV x b).getV_setV_self y c,
    fun _ hx hy => ((s.setV x b).getV_setV_of_ne c hy).trans (s.getV_setV_of_ne b hx), s.sameButRegs_report _⟩

/-! ### The results and the flags as numbers (10_state.md R10, R21) -/

/-- A difference of bytes is the difference of the numbers, modulo 256. -/
theorem toNat_byte_sub (a b : Byte) : ((a - b).toNat : Int) = (a.toNat - b.toNat : Int) % 256 := by
  have := a.isLt
  have := b.isLt
  rw [BitVec.toNat_sub]
  omega

theorem toNat_carryFlag (a b : Byte) : (carryFlag a b).toNat = flag (a.toNat + b.toNat > 255) := by
  simp [carryFlag, flag]

theorem toNat_noBorrowFlag (a b : Byte) : (noBorrowFlag a b).toNat = flag (a.toNat ≥ b.toNat) := by
  simp [noBorrowFlag, flag]

/-- A bit of a byte as a flag is the binary digit of its place. -/
theorem toNat_flagByte_getLsbD (a : Byte) (k : Nat) : (flagByte (a.getLsbD k)).toNat = a.toNat / 2 ^ k % 2 := by
  rw [toNat_flagByte, ← Nat.toNat_testBit, Bool.toNat, Bool.cond_eq_ite, BitVec.getLsbD]

/-- SHR shifts out the lowest bit: the remainder of the halving. -/
theorem toNat_shrFlag (a : Byte) : (shrFlag a).toNat = a.toNat % 2 :=
  (toNat_flagByte_getLsbD a 0).trans (by rw [pow_zero, Nat.div_one])

/-- SHL shifts out the highest bit: what the doubling carries past 255. -/
theorem toNat_shlFlag (a : Byte) : (shlFlag a).toNat = a.toNat / 128 :=
  (toNat_flagByte_getLsbD a 7).trans (Nat.mod_eq_of_lt (Nat.div_lt_of_lt_mul a.isLt))

theorem toNat_byte_shr_one (a : Byte) : (a >>> 1).toNat = a.toNat / 2 := by
  rw [BitVec.toNat_ushiftRight, Nat.shiftRight_eq_div_pow]

theorem toNat_byte_shl_one (a : Byte) : (a <<< 1).toNat = 2 * a.toNat % 256 := by
  rw [BitVec.toNat_shiftLeft, Nat.shiftLeft_eq, Nat.mul_comm]

/-- A seeded source gives its first byte (decision D18). -/
theorem State.randByte_of_supplied {s : State} {b : Byte} {bs : List Byte} (h : s.rand.supplied = b :: bs) :
    s.randByte = b := by
  rw [State.randByte, Draws.value, h]

end Sys2Proof.Machine

namespace Sys2Proof.Proofs

open Sys2Proof Sys2Proof.Machine Sys2Proof.Spec

/-- Settles O6: one register write. -/
theorem loadImmediateWritesVx : Obligations.LoadImmediateWritesVx :=
  ⟨words_xnn (op := 0x6) fun _ _ => rfl, fun _ _ _ => next_of_setV rfl⟩

/-- Settles O7: one register write, of a sum that wraps. -/
theorem addImmediateWrapsWithoutFlag : Obligations.AddImmediateWrapsWithoutFlag := by
  refine ⟨words_xnn (op := 0x7) fun _ _ => rfl, fun s x nn => ?_⟩
  obtain ⟨t, ht, hx, frame⟩ := next_of_setV (i := .addi x nn) (s := s) rfl
  exact ⟨t, ht, hx ▸ BitVec.toNat_add _ _, frame⟩

/-- Settles O8: one register write. -/
theorem moveCopiesVyToVx : Obligations.MoveCopiesVyToVx :=
  ⟨words_xys (op := 0x8) (n := 0x0) fun _ _ => rfl, fun _ _ _ => next_of_setV rfl⟩

/-- Settles O9: one register write each, of a value given bit by bit. -/
theorem logicOpsActBitByBit : Obligations.LogicOpsActBitByBit := by
  refine ⟨words_xys (op := 0x8) (n := 0x1) fun _ _ => rfl, words_xys (op := 0x8) (n := 0x2) fun _ _ => rfl,
    words_xys (op := 0x8) (n := 0x3) fun _ _ => rfl, fun s x y => ⟨?or, ?and, ?xor⟩⟩
  case or =>
    obtain ⟨t, ht, hx, frame⟩ := next_of_setV (i := .or x y) (s := s) rfl
    exact ⟨t, ht, fun _ => hx ▸ BitVec.getLsbD_or, frame⟩
  case and =>
    obtain ⟨t, ht, hx, frame⟩ := next_of_setV (i := .and x y) (s := s) rfl
    exact ⟨t, ht, fun _ => hx ▸ BitVec.getLsbD_and, frame⟩
  case xor =>
    obtain ⟨t, ht, hx, frame⟩ := next_of_setV (i := .xor x y) (s := s) rfl
    exact ⟨t, ht, fun _ => hx ▸ BitVec.getLsbD_xor, frame⟩

/-- Settles O10: the carry is the later of the two register writes. -/
theorem addWritesSumThenCarry : Obligations.AddWritesSumThenCarry := by
  refine ⟨words_xys (op := 0x8) (n := 0x4) fun _ _ => rfl, fun s x y => ?_⟩
  obtain ⟨t, ht, hx, hf, frame⟩ := next_of_setV_setV (i := .add x y) (s := s) rfl
  exact ⟨t, ht, fun h => hx h ▸ BitVec.toNat_add _ _, hf ▸ toNat_carryFlag _ _, frame⟩

/-- Settles O11: "no borrow" is the later of the two register writes. -/
theorem subWritesDifferenceThenNoBorrow : Obligations.SubWritesDifferenceThenNoBorrow := by
  refine ⟨words_xys (op := 0x8) (n := 0x5) fun _ _ => rfl, fun s x y => ?_⟩
  obtain ⟨t, ht, hx, hf, frame⟩ := next_of_setV_setV (i := .sub x y) (s := s) rfl
  exact ⟨t, ht, fun h => hx h ▸ toNat_byte_sub _ _, hf ▸ toNat_noBorrowFlag _ _, frame⟩

/-- Settles O12: SUBY is SUB with the fields exchanged, so its effect is the one of O11. -/
theorem subyWritesVyThenNoBorrow : Obligations.SubyWritesVyThenNoBorrow := by
  have exec_suby (s : State) (x y : RegIx) : exec (.suby x y) s = exec (.sub y x) s := rfl
  refine ⟨words_xys (op := 0x8) (n := 0x7) fun _ _ => rfl, fun s x y => ?_, exec_suby⟩
  obtain ⟨t, ht, effect⟩ := subWritesDifferenceThenNoBorrow.2 s y x
  exact ⟨t, (exec_suby s x y).trans ht, effect⟩

/-- Settles O13: the shifted value is the later of the two register writes. -/
theorem shiftsWriteFlagThenValue : Obligations.ShiftsWriteFlagThenValue := by
  refine ⟨words_xys (op := 0x8) (n := 0x6) fun _ _ => rfl, words_xys (op := 0x8) (n := 0xE) fun _ _ => rfl,
    fun s x y => ⟨?shr, ?shl⟩⟩
  case shr =>
    obtain ⟨t, ht, hf, hx, others, frame⟩ := next_of_setV_setV (i := .shr x y) (s := s) rfl
    exact ⟨t, ht, hx ▸ toNat_byte_shr_one _, fun h => hf h.symm ▸ toNat_shrFlag _,
      fun r hr hF => others r hF hr, frame⟩
  case shl =>
    obtain ⟨t, ht, hf, hx, others, frame⟩ := next_of_setV_setV (i := .shl x y) (s := s) rfl
    exact ⟨t, ht, hx ▸ toNat_byte_shl_one _, fun h => hf h.symm ▸ toNat_shlFlag _,
      fun r hr hF => others r hF hr, frame⟩

/-- Settles O14: one register write after one draw. -/
theorem randomByteIsMaskedAndConsumed : Obligations.RandomByteIsMaskedAndConsumed :=
  ⟨words_xnn (op := 0xC) fun _ _ => rfl, fun s x _ =>
    ⟨_, rfl, s.consumeRand.getV_setV_self x _, fun _ => s.consumeRand.getV_setV_of_ne _, rfl, rfl,
      fun _ _ => State.randByte_of_supplied, rfl, rfl, rfl, ⟨rfl, rfl⟩, ⟨rfl, rfl⟩, fun _ => rfl, rfl,
      ⟨rfl, rfl, rfl, rfl, rfl⟩, rfl, rfl⟩⟩

end Sys2Proof.Proofs

namespace Sys2Proof.Machine

open Sys2Proof.Spec

/-! ### Instructions that write `I` and nothing else (43_index_memory.md R161 to R163) -/

/-- An instruction that completes after a write of `I` has changed nothing else. -/
theorem State.sameButIndex_setIndex (s : State) (a : Addr) : SameButIndex s ((s.setIndex a).report .ok) :=
  ⟨fun _ => rfl, rfl, ⟨rfl, rfl⟩, ⟨rfl, rfl⟩, fun _ => rfl, rfl, ⟨rfl, rfl⟩, ⟨rfl, rfl, rfl, rfl, rfl⟩, rfl, rfl⟩

/-- One write of `I`: it holds the address, and all else is as it was. -/
theorem next_of_setIndex {i : Instr} {s : State} {a : Addr} (h : exec i s = complete (s.setIndex a)) :
    Next i s fun t => t.index = a ∧ SameButIndex s t :=
  ⟨_, h, rfl, s.sameButIndex_setIndex a⟩

theorem toNat_add_zextByte12 (a : Addr) (b : Byte) :
    (a + zextByte12 b).toNat = (a.toNat + b.toNat) % 0x1000 := by
  simp [zextByte12, BitVec.toNat_add, BitVec.toNat_setWidth]

/-- The digit is the register's value modulo 16 (decision D10). -/
theorem fontDigit_eq_mod (b : Byte) : fontDigit b = b.toNat % 16 := by
  simp [fontDigit, BitVec.extractLsb'_toNat]

theorem toNat_fontAddr (base : Addr) (d : Nat) : (fontAddr base d).toNat = (base.toNat + 5 * d) % 0x1000 := by
  simp [fontAddr, Config.fontStride, BitVec.toNat_add]

/-! ### Instructions that store bytes from `I` upward and nothing else (R164, R165, R167) -/

/-- Byte `k` of a range write is at `a + k` (20_memory.md R71). -/
theorem Memory.read_writeBytes_offset (m : Memory) {a : Addr} {bs : List Byte} {k : Nat}
    (h : a.toNat + bs.length ≤ Config.memSize) (hk : k < bs.length) :
    (m.writeBytes a bs).read (a + BitVec.ofNat 12 k) = bs.getD k 0 := by
  have haddr : (a + BitVec.ofNat 12 k).toNat = a.toNat + k :=
    toNat_add_offset a k (Nat.lt_of_lt_of_le (Nat.add_lt_add_left hk _) h)
  rw [Memory.read_writeBytes m a bs _ h, haddr, if_pos ⟨Nat.le_add_right _ _, Nat.add_lt_add_left hk _⟩,
    Nat.add_sub_cancel_left]

/-- An instruction that completes after a write of Memory has changed nothing else. -/
theorem State.sameButMem_setMem (s : State) (m : Memory) : SameButMem s ((s.setMem m).report .ok) :=
  ⟨fun _ => rfl, rfl, rfl, ⟨rfl, rfl⟩, ⟨rfl, rfl⟩, rfl, ⟨rfl, rfl⟩, ⟨rfl, rfl, rfl, rfl, rfl⟩, rfl, rfl⟩

/-- A store of a range from `I`: byte `k` is at `I + k`, and every other byte and all else is as it was. -/
theorem next_of_writeBytes {i : Instr} {s : State} {bs : List Byte} (hr : s.index.toNat + bs.length ≤ Config.memSize)
    (h : exec i s = complete (s.setMem (s.mem.writeBytes s.index bs))) :
    Next i s fun t => (∀ k < bs.length, t.memRead (s.index + BitVec.ofNat 12 k) = bs.getD k 0) ∧
      SameMemOutside bs.length s t ∧ SameButMem s t :=
  ⟨_, h, fun _ => s.mem.read_writeBytes_offset hr,
    fun a hout => (s.mem.read_writeBytes s.index bs a hr).trans (if_neg hout), s.sameButMem_setMem _⟩

/-- An instruction that raises a condition only reports it (60_exceptions.md R204). -/
theorem next_of_raise {i : Instr} {s : State} {c : StepCode} (hc : c.isCondition = true) (h : exec i s = raise c s) :
    Next i s fun t => OnlyReports c s t :=
  ⟨_, h, s.onlyReports_report hc⟩

/-- The bytes BCD stores are the decimal digits, none of which is cut short by its byte (R164). -/
theorem toNat_getD_bcdDigits (b : Byte) :
    ((bcdDigits b).getD 0 0).toNat = b.toNat / 100 ∧ ((bcdDigits b).getD 1 0).toNat = b.toNat / 10 % 10 ∧
    ((bcdDigits b).getD 2 0).toNat = b.toNat % 10 := by
  have := b.isLt
  exact ⟨Nat.mod_eq_of_lt (by omega), Nat.mod_eq_of_lt (by omega), Nat.mod_eq_of_lt (by omega)⟩

/-! ### The registers LDM loads (R166) -/

/-- A load of the first `n` registers: these come from Memory, and the other registers and all else are as
they were. -/
theorem next_of_loadRegs {i : Instr} {s : State} {n : Nat} (hn : n ≤ 16) (h : exec i s = complete (s.loadRegs n)) :
    Next i s fun t => (∀ k : RegIx, t.getV k =
        if k.toNat < n then s.memRead (s.index + BitVec.ofNat 12 k.toNat) else s.getV k) ∧ SameButRegs s t := by
  obtain ⟨v, hv, hget⟩ := s.loadRegs_spec n hn
  exact ⟨_, h, hget, hv ▸ s.sameButRegs_report v⟩

end Sys2Proof.Machine

namespace Sys2Proof.Proofs

open Sys2Proof Sys2Proof.Machine Sys2Proof.Spec

/-- Settles O28: the list stored is the registers in order, or the range is reported. -/
theorem storeRegistersAscending : Obligations.StoreRegistersAscending := by
  refine ⟨words_xss (op := 0xF) (nn := 0x55) fun _ => rfl, fun s x h => ?_,
    fun s x h => next_of_raise rfl (execStm_outOfRange x h)⟩
  have hlen := s.length_firstRegs_succ x
  obtain ⟨t, ht, hbytes, houtside, frame⟩ :=
    next_of_writeBytes (i := .stm x) (by rw [hlen]; exact h) (execStm_inRange x h)
  refine ⟨t, ht, fun k hk => ?_, hlen ▸ houtside, frame⟩
  have hk' : k.toNat < x.toNat + 1 := Nat.lt_succ_of_le hk
  rw [← BitVec.ofNat_toNat, hbytes k.toNat (by rw [hlen]; exact hk'), s.getD_firstRegs k hk']

/-- Settles O29: the first registers are loaded from the range, or the range is reported. -/
theorem loadRegistersAscending : Obligations.LoadRegistersAscending := by
  refine ⟨words_xss (op := 0xF) (nn := 0x65) fun _ => rfl, fun s x h => ?_,
    fun s x h => next_of_raise rfl (execLdm_outOfRange x h)⟩
  obtain ⟨t, ht, hget, frame⟩ := next_of_loadRegs (i := .ldm x) x.isLt (execLdm_inRange x h)
  refine ⟨t, ht, fun k hk => ?loaded, fun k hk => ?kept, frame⟩
  case loaded => rw [hget, if_pos (Nat.lt_succ_of_le hk), BitVec.ofNat_toNat]
  case kept => rw [hget, if_neg (Nat.not_lt_of_le hk)]

/-- Settles O30: LDM reads, by O29, the bytes that STM has stored, by O28. -/
theorem storeThenLoadRestoresRegisters : Obligations.StoreThenLoadRestoresRegisters := by
  intro s t u x hr hstm hindex hmem
  obtain ⟨_, hstm', hstored, -, -, -, hkept, -⟩ := storeRegistersAscending.2.1 s x hr
  obtain rfl := Host.Outcome.next.inj (hstm'.symm.trans hstm)
  have hus : u.index = s.index := hindex.trans hkept
  obtain ⟨z, hldm, hloaded, -⟩ := loadRegistersAscending.2.1 u x (hus ▸ hr)
  refine ⟨z, hldm, fun k hk => ?_⟩
  rw [hloaded k hk, hus, State.memRead, hmem]
  exact hstored k hk

/-- Settles O24: one write of `I`. -/
theorem loadIndexImmediate : Obligations.LoadIndexImmediate :=
  ⟨words_nnn (op := 0xA) fun _ => rfl, fun _ _ => next_of_setIndex rfl⟩

/-- Settles O25: one write of `I`, of a sum that wraps at 12 bits. -/
theorem addToIndexWraps : Obligations.AddToIndexWraps := by
  refine ⟨words_xss (op := 0xF) (nn := 0x1E) fun _ => rfl, fun s x => ?_⟩
  obtain ⟨t, ht, hindex, frame⟩ := next_of_setIndex (i := .addix x) (s := s) rfl
  exact ⟨t, ht, hindex ▸ toNat_add_zextByte12 _ _, frame⟩

/-- Settles O26: one write of `I`, of the address of the digit's glyph. -/
theorem fontPointsAtGlyph : Obligations.FontPointsAtGlyph := by
  refine ⟨words_xss (op := 0xF) (nn := 0x29) fun _ => rfl, fun s x => ?_⟩
  obtain ⟨t, ht, hindex, frame⟩ := next_of_setIndex (i := .font x) (s := s) rfl
  exact ⟨t, ht, by rw [hindex, toNat_fontAddr, fontDigit_eq_mod], frame⟩

/-- Settles O27: the list stored is the three digits, or the range is reported. -/
theorem bcdStoresThreeDigits : Obligations.BcdStoresThreeDigits := by
  refine ⟨words_xss (op := 0xF) (nn := 0x33) fun _ => rfl, fun s x h => ?_,
    fun s x h => next_of_raise rfl (execBcd_outOfRange x h)⟩
  obtain ⟨t, ht, hbytes, houtside, frame⟩ := next_of_writeBytes (i := .bcd x) h (execBcd_inRange x h)
  obtain ⟨hundreds, tens, ones⟩ := toNat_getD_bcdDigits (s.getV x)
  have byteAt (k : Nat) (hk : k < 3) := congrArg BitVec.toNat (hbytes k hk)
  have byteZero := byteAt 0 (by decide)
  rw [BitVec.add_zero] at byteZero
  exact ⟨t, ht, byteZero.trans hundreds, (byteAt 1 (by decide)).trans tens,
    (byteAt 2 (by decide)).trans ones, houtside, frame⟩

end Sys2Proof.Proofs

namespace Sys2Proof

/-- A row of the format XYN: every word of the opcode nibble is the instruction with the word's own three nibbles
(30_encoding.md R96). -/
theorem words_xyn {f : RegIx → RegIx → Nibble → Instr} {op : Nibble} (h : ∀ x y n, encode (f x y n) = wordXYN op x y n) :
    Spec.Words 0xF000 (wordXYN op 0 0 0) (fun w => f (Spec.xOf w) (Spec.yOf w) (Spec.nOf w)) :=
  fun w hw => decode_eq_some_iff.2 ((h _ _ _).trans (wordXYN_of_fields ((mask_F000 w op).1 hw) rfl))

end Sys2Proof

namespace Sys2Proof.Machine

open Sys2Proof.Spec

/-! ### Instructions that write the framebuffer (44_display.md R171 to R175) -/

/-- Everything but the general registers and the framebuffer. -/
def SameButRegsAndDisplay (s t : State) : Prop :=
  t.pc = s.pc ∧ t.index = s.index ∧ SameStack s t ∧ SameTimers s t ∧ SameMem s t ∧ SameOracles s t ∧
  SameOutside s t ∧ ReportsOk s t

/-- An instruction that completes after writes of registers and of the framebuffer has changed nothing else. -/
theorem State.sameButRegsAndDisplay_report (s : State) (v : Vector Byte 16) (fb : Framebuffer) :
    SameButRegsAndDisplay s (State.report { s with v := v, fb := fb } .ok) :=
  ⟨rfl, rfl, ⟨rfl, rfl⟩, ⟨rfl, rfl⟩, fun _ => rfl, ⟨rfl, rfl⟩, ⟨rfl, rfl, rfl, rfl, rfl⟩, rfl, rfl⟩

/-- The framebuffer replaced and a flag written to VF, all else as it was. -/
theorem next_of_setFb_setVF {i : Instr} {s : State} {fb : Framebuffer} {b : Byte}
    (h : exec i s = complete ((s.setFb fb).setVF b)) :
    Next i s fun t => t.fb = fb ∧ t.getV 0xF = b ∧ SameRegsBut 0xF s t ∧ SameButRegsAndDisplay s t :=
  ⟨_, h, rfl, (s.setFb fb).getV_setV_self 0xF b, fun _ => (s.setFb fb).getV_setV_of_ne b,
    s.sameButRegsAndDisplay_report _ fb⟩

theorem collisionFlag_eq_one_or_zero (c : Bool) : collisionFlag c = 1 ∨ collisionFlag c = 0 := by
  cases c
  · exact .inr rfl
  · exact .inl rfl

theorem collisionFlag_eq_one_iff (c : Bool) : collisionFlag c = 1 ↔ c = true := by
  cases c <;> decide

/-- A drawing has collided exactly when a pixel went from on to off: a pixel that was on went off where it was
flipped (R175). -/
theorem Drawing.Flipped.collision_iff {fb : Framebuffer} {S : Nat → Nat → Bool} {d : Drawing} (h : d.Flipped fb S) :
    d.collision = true ↔ ∃ px py, px < 64 ∧ py < 32 ∧ fb.pixel px py = true ∧ d.fb.pixel px py = false := by
  have off_iff (px py : Nat) (hx : px < 64) (hy : py < 32) :
      (S px py = true ∧ fb.pixel px py = true) ↔ (fb.pixel px py = true ∧ d.fb.pixel px py = false) := by
    rw [h.pixel px py hx hy]
    cases fb.pixel px py <;> cases S px py <;> decide
  rw [h.hit]
  constructor
  · rintro ⟨px, py, hx, hy, hon⟩
    exact ⟨px, py, hx, hy, (off_iff px py hx hy).1 hon⟩
  · rintro ⟨px, py, hx, hy, hoff⟩
    exact ⟨px, py, hx, hy, (off_iff px py hx hy).2 hoff⟩

/-- The pixels done once all `n` rows are drawn are the sprite's own bits. -/
theorem spriteDone_eq_spriteBit (s : State) (x y : RegIx) (n : Nibble) :
    spriteDone (s.getV x).toNat (s.getV y).toNat n.toNat 0 (fun r => s.mem.read (s.index + BitVec.ofNat 12 r)) =
      spriteBit s x y n := by
  funext px py
  simp [spriteDone, spriteBit, State.memRead, Bool.and_comm]

/-- The draw a DRW makes flips the pixels of the sprite's bits (R172). -/
theorem State.drawSprite_flipped (s : State) (x y : RegIx) (n : Nibble) :
    (s.drawSprite x y n).Flipped s.fb (spriteBit s x y n) :=
  spriteDone_eq_spriteBit s x y n ▸ dispDraw_flipped _ _ _ _ _ (Nat.le_trans n.isLt.le (by decide))

/-- The sprite's bits depend on the coordinates, on `I` and on Memory only. -/
theorem spriteBit_congr {s t : State} {x y : RegIx} (n : Nibble) (hx : t.getV x = s.getV x) (hy : t.getV y = s.getV y)
    (hindex : t.index = s.index) (hmem : SameMem s t) : spriteBit t x y n = spriteBit s x y n := by
  funext px py
  simp only [spriteBit, hx, hy, hindex, hmem _]

end Sys2Proof.Machine

namespace Sys2Proof.Proofs

open Sys2Proof Sys2Proof.Machine Sys2Proof.Spec

/-- Settles O32: the draw flips the sprite's bits, and VF is written after it; or the range is reported. -/
theorem drawXorsSpriteAndReportsCollision : Obligations.DrawXorsSpriteAndReportsCollision := by
  refine ⟨words_xyn (op := 0xD) fun _ _ _ => rfl, fun s x y n h => ?_,
    fun s x y n h => next_of_raise rfl (execDrw_outOfRange x y n h)⟩
  obtain ⟨t, ht, hfb, hvf, others, frame⟩ := next_of_setFb_setVF (i := .drw x y n) (execDrw_inRange x y n h)
  have flipped := s.drawSprite_flipped x y n
  refine ⟨t, ht, ?_, ?_, ?_, others, frame⟩
  · exact hfb ▸ flipped.pixel
  · exact hvf ▸ collisionFlag_eq_one_or_zero _
  · exact hvf ▸ hfb ▸ (collisionFlag_eq_one_iff _).trans flipped.collision_iff

/-- Settles O33: by O32 both draws XOR the same bits, since the first one has changed nothing they depend on. -/
theorem drawTwiceRestoresDisplay : Obligations.DrawTwiceRestoresDisplay := by
  intro s t u x y n hxF hyF hr hst htu
  obtain ⟨_, hst', hfirst, -, -, hregs, -, hindex, -, -, hmem, -⟩ :=
    drawXorsSpriteAndReportsCollision.2.1 s x y n hr
  obtain rfl := Host.Outcome.next.inj (hst.symm.trans hst')
  obtain ⟨_, htu', hsecond, -⟩ := drawXorsSpriteAndReportsCollision.2.1 t x y n (hindex ▸ hr)
  obtain rfl := Host.Outcome.next.inj (htu.symm.trans htu')
  have hbits : spriteBit t x y n = spriteBit s x y n := spriteBit_congr n (hregs x hxF) (hregs y hyF) hindex hmem
  refine Framebuffer.ext_pixel fun px py hx hy => ?_
  rw [hsecond px py hx hy, hfirst px py hx hy, hbits, Bool.bne_assoc, bne_self_eq_false, Bool.bne_false]

/-- Settles O57, by what each instruction writes. -/
theorem collaboratorsReachedOnlyByTheirInstructions : Obligations.CollaboratorsReachedOnlyByTheirInstructions := by
  intro i s t h
  cases exec_writes h with
  | clear => exact ⟨.inr (.inl rfl), .inl rfl, .inl rfl, rfl, rfl, rfl⟩
  | draw x y n fb b => exact ⟨.inr (.inr ⟨x, y, n, rfl⟩), .inl rfl, .inl rfl, rfl, rfl, rfl⟩
  | random x nn b => exact ⟨.inl rfl, .inr ⟨x, nn, rfl⟩, .inl rfl, rfl, rfl, rfl⟩
  | chosenKey x b => exact ⟨.inl rfl, .inl rfl, .inr ⟨x, rfl⟩, rfl, rfl, rfl⟩
  | _ => exact ⟨.inl rfl, .inl rfl, .inl rfl, rfl, rfl, rfl⟩

/-- Settles O31: the framebuffer is replaced by the one with every pixel off, and nothing else is written. -/
theorem clearTurnsEveryPixelOff : Obligations.ClearTurnsEveryPixelOff :=
  ⟨words_whole .cls, fun s => ⟨_, rfl, fun px py _ _ => Framebuffer.pixel_clear px py, fun _ => rfl,
    s.sameButRegsAndDisplay_report s.v Framebuffer.clear⟩⟩

end Sys2Proof.Proofs

namespace Sys2Proof.Machine

open Sys2Proof.Spec

/-! ### Instructions that write a timer and nothing else (45_timer_key.md R182, R183) -/

/-- Everything but the two timers. -/
def SameButTimers (s t : State) : Prop :=
  SameRegs s t ∧ t.pc = s.pc ∧ t.index = s.index ∧ SameStack s t ∧ SameMem s t ∧ SameDisplay s t ∧ SameOracles s t ∧
  SameOutside s t ∧ ReportsOk s t

/-- An instruction that completes after writes of the timers has changed nothing else. -/
theorem State.sameButTimers_report (s : State) (d e : Byte) :
    SameButTimers s (State.report { s with dt := d, st := e } .ok) :=
  ⟨fun _ => rfl, rfl, rfl, ⟨rfl, rfl⟩, fun _ => rfl, rfl, ⟨rfl, rfl⟩, ⟨rfl, rfl, rfl, rfl, rfl⟩, rfl, rfl⟩

/-! ### The Keypad's answer and the two ways of a key wait (45_timer_key.md R181, R185) -/

/-- With a key down the Keypad names one that is down, and no more than its own draw has moved (decision D22). -/
theorem State.keyAny_of_keys_ne_zero {s : State} (h : s.keys ≠ 0) :
    ∃ (k : KeyId) (d : Draws Nat), s.keys.getLsbD k.toNat = true ∧ (d = s.keyDraws ∨ d = s.keyDraws.next) ∧
      s.keyAny = some (k, { s with keyDraws := d }) := by
  obtain ⟨⟨k, u⟩, hk⟩ := Option.ne_none_iff_exists'.1 (mt s.keyAny_eq_none.1 h)
  obtain ⟨hdown, rfl | rfl⟩ := State.keyAny_eq_some hk
  · exact ⟨k, _, hdown, .inl rfl, hk⟩
  · exact ⟨k, _, hdown, .inr rfl, hk⟩

/-- A supplied choice that is a position among the pressed keys picks the key at that position (assumption 4). -/
theorem State.keyAny_of_supplied {s : State} {c : Nat} {cs : List Nat} (hs : s.keyDraws.supplied = c :: cs)
    (hc : c < (pressedKeys s.keys).length) : ∃ u, s.keyAny = some ((pressedKeys s.keys)[c], u) := by
  unfold State.keyAny
  generalize pressedKeys s.keys = keys at hc ⊢
  match keys, hc with
  | [k], hc =>
    obtain rfl : c = 0 := Nat.lt_one_iff.1 hc
    exact ⟨s, rfl⟩
  | k :: k' :: ks, hc =>
    have hpick : s.keyDraws.value Config.freeKeyChoice % (ks.length + 2) = c := by
      rw [Draws.value, hs]
      exact Nat.mod_eq_of_lt hc
    exact ⟨s.consumeKeyDraw, by simp only [hpick, List.getD_eq_getElem _ _ hc]⟩

theorem execWkey_of_keyAny {s u : State} {k : KeyId} (x : RegIx) (h : s.keyAny = some (k, u)) :
    execWkey x s = complete (u.setV x (k.setWidth 8)) := by
  rw [execWkey, h]

theorem execWkey_of_keys_eq_zero {s : State} (x : RegIx) (h : s.keys = 0) :
    execWkey x s = .next ((s.setPc (s.pc - 2)).report .waitKey) := by
  rw [execWkey, s.keyAny_eq_none.2 h]

end Sys2Proof.Machine

namespace Sys2Proof.Proofs

open Sys2Proof Sys2Proof.Machine Sys2Proof.Spec

/-- Settles O36: with no key down only `pc` and the record are written; with one down only `V[x]` and the record are,
after at most one draw. -/
theorem waitKeyPollsTheKeypad : Obligations.WaitKeyPollsTheKeypad := by
  refine ⟨words_xss (op := 0xF) (nn := 0x0A) fun _ => rfl, fun s x hnone => ?waits, fun s x hdown => ?reports⟩
  case waits =>
    exact ⟨_, execWkey_of_keys_eq_zero x hnone, rfl, rfl, rfl, fun _ => rfl, rfl, ⟨rfl, rfl⟩, ⟨rfl, rfl⟩,
      fun _ => rfl, rfl, ⟨rfl, rfl⟩, rfl, rfl, rfl, rfl, rfl⟩
  case reports =>
    obtain ⟨k, d, hk, hd, hany⟩ := State.keyAny_of_keys_ne_zero hdown
    refine ⟨_, execWkey_of_keyAny x hany, ⟨k, hk, ?written⟩, fun _ => State.getV_setV_of_ne _ _, rfl, rfl, ⟨rfl, rfl⟩,
      ⟨rfl, rfl⟩, fun _ => rfl, rfl, rfl, hd, ⟨rfl, rfl, rfl, rfl, rfl⟩, rfl, rfl⟩
    case written => rw [State.report_getV, State.getV_setV_self, BitVec.toNat_setWidth_of_le (by decide)]

/-- Settles O37: the choice is the key's own position among the pressed keys. -/
theorem everyPressedKeyCanBeReported : Obligations.EveryPressedKeyCanBeReported := by
  intro s x k hk
  obtain ⟨c, hc, rfl⟩ := List.getElem_of_mem ((mem_pressedKeys s.keys k).2 hk)
  obtain ⟨u, hany⟩ := State.keyAny_of_supplied (s := { s with keyDraws := ⟨[c], s.keyDraws.taken⟩ }) rfl hc
  exact ⟨c, _, execWkey_of_keyAny x hany, u.getV_setV_self x _⟩

/-- Settles O34: one register write. -/
theorem readDelayTimer : Obligations.ReadDelayTimer :=
  ⟨words_xss (op := 0xF) (nn := 0x07) fun _ => rfl, fun _ _ => next_of_setV rfl⟩

/-- Settles O35: one write of a timer each. -/
theorem setTimers : Obligations.SetTimers :=
  ⟨words_xss (op := 0xF) (nn := 0x15) fun _ => rfl, words_xss (op := 0xF) (nn := 0x18) fun _ => rfl, fun s x =>
    ⟨⟨_, rfl, rfl, rfl, s.sameButTimers_report (s.getV x) s.st⟩,
      ⟨_, rfl, rfl, rfl, s.sameButTimers_report s.dt (s.getV x)⟩⟩⟩

end Sys2Proof.Proofs

namespace Sys2Proof.Machine

open Sys2Proof.Spec

/-! ### The tick of the timers (60_exceptions.md R215) -/

/-- A tick takes one from a timer, and zero stays zero (decision D12). -/
theorem toNat_tickTimer (t : Byte) : (tickTimer t).toNat = t.toNat - 1 := by
  unfold tickTimer
  split
  next hzero => rw [hzero]; rfl
  next hpos => bv_omega

/-- One tick and `k` more take away what `k + 1` do. -/
theorem toNat_tickTimer_sub (t : Byte) (k : Nat) : (tickTimer t).toNat - k = t.toNat - (k + 1) := by
  rw [toNat_tickTimer]
  omega

/-- After `k` ticks each timer is `k` less, or zero. -/
theorem State.toNat_timers_deliverAll_ticks (s : State) (k : Nat) :
    (s.deliverAll (List.replicate k .tick)).dt.toNat = s.dt.toNat - k ∧
    (s.deliverAll (List.replicate k .tick)).st.toNat = s.st.toNat - k := by
  induction k generalizing s with
  | zero => exact ⟨rfl, rfl⟩
  | succ k ih =>
    obtain ⟨hdt, hst⟩ := ih (s.deliver .tick)
    exact ⟨hdt.trans (toNat_tickTimer_sub s.dt k), hst.trans (toNat_tickTimer_sub s.st k)⟩

/-- A byte that holds a truncated difference is zero exactly when nothing is left of it. -/
theorem byte_eq_zero_iff_of_toNat_eq_sub {b : Byte} {n k : Nat} (h : b.toNat = n - k) : b = 0 ↔ n ≤ k := by
  rw [← BitVec.toNat_inj, h]
  exact Nat.sub_eq_zero_iff_le

/-! ### A refused fetch (60_exceptions.md R203, R208) -/

theorem State.fetchRefused_firstCondition (s : State) :
    s.fetchRefused.firstCondition = some (s.firstCondition.getD s.fetchRefused.result) :=
  State.report_condition_firstCondition _ rfl

/-- Refusing the fetch once more changes nothing: the record is the same, and a condition is remembered already. -/
theorem State.fetchRefused_fetchRefused (s : State) : s.fetchRefused.fetchRefused = s.fetchRefused := by
  refine State.ext_fields rfl rfl rfl rfl rfl rfl rfl rfl rfl rfl rfl rfl rfl rfl rfl ?_
  rw [s.fetchRefused.fetchRefused_firstCondition, s.fetchRefused_firstCondition]
  rfl

/-! ### What is remembered of a step (60_exceptions.md R209, R222) -/

theorem State.not_isCondition_report_ok (s : State) : ¬ (s.report .ok).result.code.isCondition = true :=
  Bool.false_ne_true

/-- `t` remembers its own result if that is a condition and `s` remembers none, and else what `s` does. -/
def State.Remembers (s t : State) : Prop :=
  t.firstCondition =
    if t.result.code.isCondition && s.firstCondition.isNone then some t.result else s.firstCondition

theorem State.remembers_report (s : State) (c : StepCode) : s.Remembers (s.report c) := rfl

/-- What is written beside the record has no part in what is remembered. -/
theorem exec_remembers {i : Instr} {s t : State} (h : exec i s = .next t) : s.Remembers t := by
  cases exec_writes h <;> exact State.report_firstCondition _ _

theorem coreStep_remembers {s t : State} (h : coreStep s = .next t) : s.Remembers t := by
  obtain ⟨-, e⟩ | ⟨-, -, e⟩ | ⟨-, i, -, e⟩ := coreStep_cases s
  · obtain rfl := Host.Outcome.next.inj (e.symm.trans h)
    exact State.remembers_report { s with result := ⟨.ok, s.pc, 0x0000⟩ } _
  · obtain rfl := Host.Outcome.next.inj (e.symm.trans h)
    exact (s.beginExecute s.fetchWord).remembers_report _
  · exact exec_remembers (s := s.beginExecute s.fetchWord) (e.symm.trans h)

/-- The events of the gap neither report nor forget a condition. -/
theorem step_remembers {s t : State} (h : step s = .next t) : s.Remembers t := by
  have hgap : s.betweenSteps.firstCondition = s.firstCondition := s.betweenSteps_sameInside.firstCondition
  have hstep : s.betweenSteps.Remembers t := coreStep_remembers h
  rwa [State.Remembers, hgap] at hstep

end Sys2Proof.Machine

namespace Sys2Proof.Proofs

open Sys2Proof Sys2Proof.Machine Sys2Proof.Spec

/-- Settles O39: a timer is what the ticks have left of it. -/
theorem timerReachesZeroAfterItsValue : Obligations.TimerReachesZeroAfterItsValue := by
  intro s k
  obtain ⟨hdt, hst⟩ := s.toNat_timers_deliverAll_ticks k
  exact ⟨byte_eq_zero_iff_of_toNat_eq_sub hdt, byte_eq_zero_iff_of_toNat_eq_sub hst⟩

/-- Settles O45: only the record is written, and a second refusal would write the same. -/
theorem refusedFetchChangesNothing : Obligations.RefusedFetchChangesNothing := by
  intro s hpc
  have hrefused : s.canFetch = false := s.canFetch_false_iff.2 hpc
  have hagain : coreStep s.fetchRefused = .next s.fetchRefused :=
    (coreStep_refused (s := s.fetchRefused) hrefused).trans (congrArg _ s.fetchRefused_fetchRefused)
  exact ⟨_, coreStep_refused hrefused, fun _ => rfl, rfl, rfl, ⟨rfl, rfl⟩, ⟨rfl, rfl⟩, fun _ => rfl, rfl, ⟨rfl, rfl⟩,
    rfl, rfl, s.fetchRefused_firstCondition, hagain⟩

/-- Settles O50: an instruction's cases are those that complete, which report no condition, and the one its own check
raises, which only reports. -/
theorem conditionsArePreciseAndCaused : Obligations.ConditionsArePreciseAndCaused := by
  intro i s t h hc
  have e := exec_effect h
  cases i
  case call nnn =>
    obtain ⟨_, rfl⟩ | ⟨hfull, rfl⟩ := e
    · exact absurd hc (State.not_isCondition_report_ok _)
    · exact ⟨s.onlyReports_report hc, .inl ⟨rfl, ⟨nnn, rfl⟩, hfull⟩⟩
  case ret =>
    obtain ⟨_, rfl⟩ | ⟨hempty, rfl⟩ := e
    · exact absurd hc (State.not_isCondition_report_ok _)
    · exact ⟨s.onlyReports_report hc, .inr (.inl ⟨rfl, rfl, hempty⟩)⟩
  case bcd x =>
    obtain ⟨-, rfl⟩ | ⟨hout, rfl⟩ := e
    · exact absurd hc (State.not_isCondition_report_ok _)
    · exact ⟨s.onlyReports_report hc, .inr (.inr ⟨rfl, .inl ⟨x, .inl ⟨rfl, hout⟩⟩⟩)⟩
  case stm x =>
    obtain ⟨-, rfl⟩ | ⟨hout, rfl⟩ := e
    · exact absurd hc (State.not_isCondition_report_ok _)
    · exact ⟨s.onlyReports_report hc, .inr (.inr ⟨rfl, .inl ⟨x, .inr ⟨.inl rfl, hout⟩⟩⟩)⟩
  case ldm x =>
    obtain ⟨-, v, rfl, -⟩ | ⟨hout, rfl⟩ := e
    · exact absurd hc (State.not_isCondition_report_ok _)
    · exact ⟨s.onlyReports_report hc, .inr (.inr ⟨rfl, .inl ⟨x, .inr ⟨.inr rfl, hout⟩⟩⟩)⟩
  case drw x y n =>
    obtain ⟨-, rfl⟩ | ⟨hout, rfl⟩ := e
    · exact absurd hc (State.not_isCondition_report_ok _)
    · exact ⟨s.onlyReports_report hc, .inr (.inr ⟨rfl, .inr ⟨x, y, n, rfl, hout⟩⟩)⟩
  case wkey x =>
    obtain ⟨-, rfl⟩ | ⟨k, -, rfl | rfl⟩ := e
    · exact absurd hc Bool.false_ne_true
    all_goals exact absurd hc (State.not_isCondition_report_ok _)
  all_goals
    obtain rfl := e
    exact absurd hc (State.not_isCondition_report_ok _)

/-- Settles O51, by what a step remembers. -/
theorem firstConditionIsKept : Obligations.FirstConditionIsKept := by
  intro s t h
  have remembered := step_remembers h
  constructor
  · intro r hr
    simpa [State.Remembers, hr] using remembered
  · intro hnone
    simpa [State.Remembers, hnone] using remembered

/-- Settles O38: each event writes the parts it names. -/
theorem tickCountsDownToZero : Obligations.TickCountsDownToZero :=
  ⟨fun s => ⟨tickTimer s.dt, tickTimer s.st, toNat_tickTimer s.dt, toNat_tickTimer s.st, rfl⟩,
    fun _ _ => rfl, fun _ _ => rfl, fun _ _ => rfl⟩

/-- Settles O46: after the advance of `pc` only the record is written. -/
theorem unrecognisedWordIsReportedNoOp : Obligations.UnrecognisedWordIsReportedNoOp :=
  fun s hpc hd => ⟨_, coreStep_unrecognised (s.canFetch_iff.2 hpc) hd, rfl, fun _ => rfl, rfl, ⟨rfl, rfl⟩, ⟨rfl, rfl⟩,
    fun _ => rfl, rfl, ⟨rfl, rfl⟩, rfl, rfl, (s.beginExecute s.fetchWord).report_condition_firstCondition rfl⟩

end Sys2Proof.Proofs
